-- ==== Sys2Proof/Word.lean ====
section
/-! DEFINITION. The block's word types (00_scope.md R11; 30_encoding.md R44). Bit 0 is the least significant bit
everywhere (00_scope.md R12), as in Lean's BitVec. -/

namespace Sys2Proof

/-- A peripheral register, an operand, a read result: 8 bits (00_scope.md R11). -/
abbrev Byte := BitVec 8

/-- A command word `CW`: 11 bits, presented whole (30_encoding.md R44). -/
abbrev CmdWord := BitVec 11

/-- A value of the timeout counter: `TO_W` = 17 bits (00_scope.md R11). -/
abbrev Count := BitVec 17

end Sys2Proof
end

