-- ==== Sys2Proof/Machine/Operands.lean ====
section
/-! DEFINITION. The fields of a command word (30_encoding.md R44) and its operand (R46). -/

namespace Sys2Proof.Machine

/-- `op` = CW[10:8] (30_encoding.md R44). -/
def opField (cw : CmdWord) : BitVec 3 := cw.extractLsb' 8 3

/-- `arg` = CW[7:0], taken as it is: not extended, scaled or shifted (30_encoding.md R44, R46). -/
def argField (cw : CmdWord) : Byte := cw.extractLsb' 0 8

/-- The word `{op, arg}` (30_encoding.md R44). -/
def mkWord (op : BitVec 3) (arg : Byte) : CmdWord := op ++ arg

end Sys2Proof.Machine
end

