-- ==== Sys2Proof/Syntax.lean ====
section
/-! DEFINITION. The ten rows of spec/opcode_table.json as one inductive: six commands (30_encoding.md R47) and the
four alias spellings (45_aliases.md R68 to R71). A format-N command keeps the byte `ign` of its `arg` field: the
block gives it no meaning (R45), but accept latches it into ARG (40_sequencer_primitives.md R52; log 11). -/

namespace Sys2Proof

inductive Instr where
  /-- `INIT` (R62) -/
  | init (ign : Byte)
  /-- `START a` (R63) -/
  | start (a : Byte)
  /-- `STOP` (R64) -/
  | stop (ign : Byte)
  /-- `BYTE d` (R65) -/
  | byte (d : Byte)
  /-- `READACK` (R66) -/
  | readAck (ign : Byte)
  /-- `READNACK` (R67) -/
  | readNack (ign : Byte)
  /-- `TX_START`, another spelling of INIT (R68) -/
  | txStart (ign : Byte)
  /-- `TX_ADDRESS a`, another spelling of START (R69) -/
  | txAddress (a : Byte)
  /-- `TX_BYTE d`, another spelling of BYTE (R70) -/
  | txByte (d : Byte)
  /-- `TX_STOP`, another spelling of STOP (R71) -/
  | txStop (ign : Byte)
deriving DecidableEq, Repr

end Sys2Proof
end

