-- ==== Sys2Proof/Decode.lean ====
section
/-! DEFINITION. The decoder, total on every word, and the encoder (30_encoding.md R44 to R50). Decoding is stateless
(R49). -/

namespace Sys2Proof

open Machine

/-- What decoding a number answers. `reserved`: opcode 6 or 7 (30_encoding.md R48). `tooWide`: not an 11-bit word (R44). -/
inductive Decoded where
  | instr (i : Instr)
  | reserved (op : BitVec 3)
  | tooWide
deriving DecidableEq, Repr

/-- The opcode map (30_encoding.md R47). -/
def decode (cw : CmdWord) : Decoded :=
  match (opField cw).toNat with
  | 0 => .instr (.init (argField cw))
  | 1 => .instr (.start (argField cw))
  | 2 => .instr (.stop (argField cw))
  | 3 => .instr (.byte (argField cw))
  | 4 => .instr (.readAck (argField cw))
  | 5 => .instr (.readNack (argField cw))
  | _ => .reserved (opField cw)

/-- Decoding a number: it must be an 11-bit word (30_encoding.md R44). -/
def decodeNat (w : Nat) : Decoded :=
  if w < 2 ^ 11 then decode (BitVec.ofNat 11 w) else .tooWide

/-- The instruction the decoder reads from the `nbits` low bits of `w`, numbered as the opcode table numbers them. -/
def decodeTableWord (nbits w : Nat) : Option Instr :=
  match decodeNat (w % 2 ^ nbits) with
  | .instr i => some i
  | .reserved _ => none
  | .tooWide => none

/-- The opcode of an instruction; an alias has its delegate's (30_encoding.md R47, R50). -/
def opcode : Instr → BitVec 3
  | .init _ => 0#3
  | .start _ => 1#3
  | .stop _ => 2#3
  | .byte _ => 3#3
  | .readAck _ => 4#3
  | .readNack _ => 5#3
  | .txStart _ => 0#3
  | .txAddress _ => 1#3
  | .txByte _ => 3#3
  | .txStop _ => 2#3

/-- The `arg` byte of an instruction (30_encoding.md R45, R46). -/
def operand : Instr → Byte
  | .init x => x
  | .start x => x
  | .stop x => x
  | .byte x => x
  | .readAck x => x
  | .readNack x => x
  | .txStart x => x
  | .txAddress x => x
  | .txByte x => x
  | .txStop x => x

/-- The command word of an instruction (30_encoding.md R47, R50). -/
def encode (i : Instr) : CmdWord := mkWord (opcode i) (operand i)

/-- The command an instruction is a spelling of: an alias's delegate (45_aliases.md), every other one itself. A
disassembler prints this one (30_encoding.md R50). -/
def delegate : Instr → Instr
  | .init x => .init x
  | .start x => .start x
  | .stop x => .stop x
  | .byte x => .byte x
  | .readAck x => .readAck x
  | .readNack x => .readNack x
  | .txStart x => .init x
  | .txAddress x => .start x
  | .txByte x => .byte x
  | .txStop x => .stop x

/-- The instruction as the assembler writes it: format N has `arg` = 0x00 (30_encoding.md R45). -/
def assembled : Instr → Instr
  | .init _ => .init 0#8
  | .start x => .start x
  | .stop _ => .stop 0#8
  | .byte x => .byte x
  | .readAck _ => .readAck 0#8
  | .readNack _ => .readNack 0#8
  | .txStart _ => .txStart 0#8
  | .txAddress x => .txAddress x
  | .txByte x => .txByte x
  | .txStop _ => .txStop 0#8

/-- One row of the opcode map: a word `w` is the row's when `w &&& mask = pattern` (30_encoding.md R47; `match` in the
spec's table). -/
structure OpcodeRow where
  op : BitVec 3
  pattern : CmdWord
  mask : CmdWord
deriving DecidableEq, Repr

/-- The six instruction rows of R47's table. -/
def opcodeRows : List OpcodeRow :=
  [ ⟨0#3, 0x000#11, 0x700#11⟩,
    ⟨1#3, 0x100#11, 0x700#11⟩,
    ⟨2#3, 0x200#11, 0x700#11⟩,
    ⟨3#3, 0x300#11, 0x700#11⟩,
    ⟨4#3, 0x400#11, 0x700#11⟩,
    ⟨5#3, 0x500#11, 0x700#11⟩ ]

/-- The reserved row of R47's table: opcodes 6 and 7. -/
def reservedPattern : CmdWord := 0x600#11
def reservedMask : CmdWord := 0x600#11

end Sys2Proof
end

