-- ==== Sys2Proof/Config.lean ====
section
/-! DEFINITION. What one instance of the block fixes before it exists (00_scope.md R4, R10; 20_memory.md R27), and
the one free value of the model: the byte the peripheral answers where the run writes no answer down
(20_memory.md R42). -/

namespace Sys2Proof

/-- The five registers of the bus-controller peripheral: status, bit-rate, control, data, address (20_memory.md R24). -/
inductive PReg where
  | SR | BR | CR | DR | AR
deriving DecidableEq, Repr

/-- The elaboration parameters. `prescale` is any number here; `Config.valid` (WellFormed.lean) says which
configurations have a block. -/
structure Config where
  /-- `CPU_HZ` (00_scope.md R4) -/
  cpuHz : Nat
  /-- `SCL_HZ` (R4) -/
  sclHz : Nat
  /-- `PRESCALE` (R4) -/
  prescale : Nat
  /-- `INT_B`, the completion flag, and the completion-flag-clear bit on a write (R10) -/
  intB : Fin 8
  /-- `EA_B`, acknowledge-enable (R10) -/
  eaB : Fin 8
  /-- `STA_B`, start-request (R10) -/
  staB : Fin 8
  /-- `STO_B`, stop-request (R10) -/
  stoB : Fin 8
  /-- `EN_B`, enable (R10) -/
  enB : Fin 8
  /-- `REG_ADDR` of SR, BR, CR, DR, AR (20_memory.md R27); no rule depends on them -/
  addrSR : Nat
  addrBR : Nat
  addrCR : Nat
  addrDR : Nat
  addrAR : Nat
deriving DecidableEq, Repr

/-- FREE VALUE (log 4): what the peripheral answers to the n-th read for which `State.env` writes no answer down.
No body: nothing can be proved of its value ("under no law that this spec can state", 20_memory.md R42). -/
opaque freeAnswer : Nat → Byte

end Sys2Proof
end

