-- ==== Sys2Proof/Machine/Params.lean ====
section
/-! DEFINITION. The constants an instance derives from its configuration (00_scope.md R5 to R10), the select codes of
the register port (20_memory.md R27) and the five control-register write values (20_memory.md R29). They are computed
before the block exists (40_sequencer_primitives.md R59e), so over Nat and Int without a width. -/

namespace Sys2Proof.Machine

/-- `RATIO = floor(CPU_HZ / SCL_HZ)` (00_scope.md R5). -/
def ratio (c : Config) : Nat := c.cpuHz / c.sclHz

/-- `PS_CODE` (00_scope.md R6): 0, 1, 2, 3 for PRESCALE 1, 4, 16, 64. Any other PRESCALE has no block (R8; log 24). -/
def psCode (c : Config) : BitVec 2 :=
  match c.prescale with
  | 4 => 1#2
  | 16 => 2#2
  | 64 => 3#2
  | _ => 0#2

/-- `BR_DIV = floor((RATIO - 16) / (PRESCALE * 2))` over the integers (00_scope.md R7). -/
def brDiv (c : Config) : Int := ((ratio c : Int) - 16) / ((c.prescale : Int) * 2)

/-- BR_DIV as the byte INIT writes (20_memory.md R33); 0 ≤ BR_DIV ≤ 255 in a valid configuration. -/
def brDivByte (c : Config) : Byte := BitVec.ofInt 8 (brDiv c)

/-- `TO_BUDGET = RATIO * 2` (00_scope.md R9). -/
def toBudget (c : Config) : Nat := ratio c * 2

/-- TO_BUDGET as Trigger loads it into CNT (40_sequencer_primitives.md R54). -/
def toBudgetCount (c : Config) : Count := BitVec.ofNat 17 (toBudget c)

/-- `M_INT`, `M_EA`, `M_STA`, `M_STO`, `M_EN` (00_scope.md R10). -/
def mInt (c : Config) : Byte := 1#8 <<< c.intB.val
def mEa (c : Config) : Byte := 1#8 <<< c.eaB.val
def mSta (c : Config) : Byte := 1#8 <<< c.staB.val
def mSto (c : Config) : Byte := 1#8 <<< c.stoB.val
def mEn (c : Config) : Byte := 1#8 <<< c.enB.val

/-- The five control-register writes (20_memory.md R29). -/
def cwEnable (c : Config) : Byte := mEn c
def cwStart (c : Config) : Byte := mInt c ||| mSta c ||| mEn c
def cwXfer (c : Config) : Byte := mInt c ||| mEn c
def cwXferAck (c : Config) : Byte := mInt c ||| mEa c ||| mEn c
def cwStop (c : Config) : Byte := mInt c ||| mSto c ||| mEn c

/-- The byte INIT writes to SR: `zext_8(PS_CODE)` (20_memory.md R32). -/
def psByte (c : Config) : Byte := (psCode c).setWidth 8

/-- `v[INT_B] == 1`, the only thing a poll looks at (20_memory.md R30). -/
def flagSet (c : Config) (v : Byte) : Bool := v.getLsbD c.intB.val

/-- The select code a register is addressed with at the port (20_memory.md R27). -/
def regSelCode : PReg → BitVec 3
  | .SR => 0#3
  | .BR => 1#3
  | .CR => 2#3
  | .DR => 3#3
  | .AR => 4#3

/-- `REG_ADDR` (20_memory.md R27): the open parameter that no rule depends on. -/
def regAddr (c : Config) : PReg → Nat
  | .SR => c.addrSR
  | .BR => c.addrBR
  | .CR => c.addrCR
  | .DR => c.addrDR
  | .AR => c.addrAR

end Sys2Proof.Machine
end

