-- ==== Sys2Proof/WellFormed.lean ====
section
/-! DEFINITION. What is well-formed: a configuration that has a block (00_scope.md R8, R10; 20_memory.md R27), a command
word the block may accept (30_encoding.md R48), and an instruction some command word decodes to (R50: the alias spellings
have no words of their own). -/

namespace Sys2Proof

/-- The five conditions of 00_scope.md R8, in its order. -/
def Config.meetsR8 (c : Config) : Bool :=
  decide (1 ≤ c.cpuHz) && decide (1 ≤ c.sclHz) &&
  (c.prescale == 1 || c.prescale == 4 || c.prescale == 16 || c.prescale == 64) &&
  decide (16 ≤ Machine.ratio c) && decide (Machine.brDiv c ≤ 255)

/-- The five bit positions are pairwise distinct (00_scope.md R10). -/
def Config.positionsDistinct (c : Config) : Bool :=
  decide [c.intB, c.eaB, c.staB, c.stoB, c.enB].Nodup

/-- REG_ADDR is injective (20_memory.md R27). -/
def Config.addressesDistinct (c : Config) : Bool :=
  decide [c.addrSR, c.addrBR, c.addrCR, c.addrDR, c.addrAR].Nodup

/-- The configurations that have a block. -/
def Config.valid (c : Config) : Bool := c.meetsR8 && c.positionsDistinct && c.addressesDistinct

/-- "the configuration a record paired with a proof of validity; it never clamps" (00_scope.md R8). -/
structure ValidConfig where
  raw : Config
  ok : raw.valid = true
deriving DecidableEq, Repr

/-- A word the block accepts: its opcode is at most 5 (40_sequencer_primitives.md R52). -/
def CmdWord.legal (cw : CmdWord) : Bool := decide ((Machine.opField cw).toNat ≤ 5)

/-- The instruction is the one its own word decodes to; the four alias spellings are not (30_encoding.md R50). -/
def Instr.wf : Instr → Bool
  | .init _ => true
  | .start _ => true
  | .stop _ => true
  | .byte _ => true
  | .readAck _ => true
  | .readNack _ => true
  | .txStart _ => false
  | .txAddress _ => false
  | .txByte _ => false
  | .txStop _ => false

end Sys2Proof
end

