-- ==== Sys2Proof/Machine/State.lean ====
section
/-! DEFINITION. The state: the six registers the spec gives the block (10_state.md R13), and beside them the model's own
fields: the configuration (00_scope.md R4), the host's port values of the coming steps, the peripheral's answers, and the
events of the run (20_memory.md R25, R42, R43). Plain data. -/

namespace Sys2Proof.Machine

/-- `PH`, one of 19 named values (10_state.md R17). -/
inductive Phase where
  | idle
  | i1 | i2 | i3
  | s1 | s2 | s3 | s4 | s5
  | p1
  | b1 | b2 | b3
  | a1 | a2 | a3
  | n1 | n2 | n3
deriving DecidableEq, Repr

/-- The five causes of a timeout (60_exceptions.md R72), numbered 0 to 4 in this order. -/
inductive Cause where
  | start | address | byte | readAck | readNack
deriving DecidableEq, Repr

/-- The events of a run (20_memory.md R25): `W(r, v)`, `R(r, v)`, `Accept(cw)`, `Done` and `Done(v)`, `ErrWrite(v)`,
`Reset`. `timeout n` is the model's own record that `raise Timeout(n)` happened (log 7). -/
inductive Event where
  | write (r : PReg) (v : Byte)
  | read (r : PReg) (v : Byte)
  | accept (cw : CmdWord)
  | timeout (n : Cause)
  | done (v : Option Byte)
  | errWrite (v : Byte)
  | reset
deriving DecidableEq, Repr

/-- The input ports in one step (20_memory.md R25). -/
structure HostInput where
  rst : Bool
  cmdValid : Bool
  cmdWord : CmdWord
  errWr : Bool
  errWdata : Byte
deriving DecidableEq, Repr

/-- The peripheral as the block sees it: what answers its reads (20_memory.md R42). -/
inductive Env where
  /-- any answer sequence, in the order of the reads; past its end each answer is a free value (log 4) -/
  | free (answers : List Byte)
  /-- `ENV_DEAD`: the completion flag is never set -/
  | dead
  /-- `ENV_DELAY(k, d)`; `seen` counts the CR reads since the last trigger write. `ENV_RESPONSIVE(d)` is `ENV_DELAY(1, d)` -/
  | delay (k : Nat) (d : List Byte) (seen : Nat)
deriving DecidableEq, Repr

structure State where
  /-- `ERR`, 8 bits, bits 7..5 hard-wired 0 (10_state.md R14) -/
  err : Byte
  /-- `CNT`, 17 bits (10_state.md R16) -/
  cnt : Count
  /-- `PH` (10_state.md R17) -/
  ph : Phase
  /-- `OP`, 3 bits (10_state.md R18) -/
  op : BitVec 3
  /-- `ARG`, 8 bits (10_state.md R18) -/
  arg : Byte
  /-- `RES`, 8 bits (10_state.md R19) -/
  res : Byte
  /-- the instance's configuration; no step changes it (00_scope.md R4; log 1) -/
  cfg : ValidConfig
  /-- the model's own: the input ports in the coming steps; past its end nothing is driven (log 6) -/
  host : List HostInput
  /-- the model's own: the peripheral's answers (log 4, log 5) -/
  env : Env
  /-- the model's own: how many free answers have been drawn (log 4) -/
  draws : Nat
  /-- the model's own: the events of the run, oldest first (log 7) -/
  events : List Event
  /-- the model's own: how many events had happened before the last step (log 7) -/
  mark : Nat
deriving DecidableEq, Repr

/-- No step of this machine stops with a fault: the block's only exception is the timeout, which it takes
(60_exceptions.md R72), so nothing raises one. Safe. -/
inductive Fault
deriving DecidableEq, Repr

/-- Why a step has no next state. -/
inductive Refusal where
  /-- an instruction the model gives no meaning yet; no arm of exec answers it. Safe. -/
  | notModelled (mnemonic : String)
  /-- raised by the step that is offered a word with opcode 6 or 7 while IDLE and not in reset: "A model treats a reserved
  word as a refusal" (30_encoding.md R48; log 9). Safe: the hardware would stay as it is. -/
  | reservedCommand (cw : CmdWord)
deriving DecidableEq, Repr

/-- DESIGN CHOICE (log 1, 2, 3): the configuration State.reset names, the spec's CFG_A with the default bit positions. -/
def cfgA : ValidConfig where
  raw :=
    { cpuHz := 16000000, sclHz := 400000, prescale := 1
      intB := 7, eaB := 6, staB := 5, stoB := 4, enB := 2
      addrSR := 0, addrBR := 1, addrCR := 2, addrDR := 3, addrAR := 4 }
  ok := by decide

/-- The machine right after reset (10_state.md R23). The last six fields are the model's own (log 17). -/
def State.reset : State where
  err := 0x00#8
  cnt := 0#17
  ph := .idle
  op := 0#3
  arg := 0x00#8
  res := 0x00#8
  cfg := cfgA
  host := []
  env := .free []
  draws := 0
  events := []
  mark := 0

end Sys2Proof.Machine
end

