-- ==== Sys2Proof/Machine/Flags.lean ====
section
/-! DEFINITION. The error register ERR: its five flags, how a timeout sets one, how the host reads and writes it
(10_state.md R14, R15; 60_exceptions.md R72, R79, R80). -/

namespace Sys2Proof.Machine

/-- The cause code n (60_exceptions.md R72). -/
def causeCode : Cause → Nat
  | .start => 0
  | .address => 1
  | .byte => 2
  | .readAck => 3
  | .readNack => 4

/-- `1 << n` at 8 bits: E_START, E_ADDR, E_BYTE, E_RDACK, E_RDNACK (10_state.md R14). -/
def errMask (n : Cause) : Byte := 1#8 <<< causeCode n

/-- The five defined bits of ERR (10_state.md R14). -/
def errDefined : Byte := 0x1F#8

/-- What reading ERR gives: bits 7..5 read as 0 (10_state.md R14; log 19). -/
def errPort (s : State) : Byte := s.err &&& errDefined

/-- ERR after `raise Timeout(n)`: one bit ORed in, nothing cleared (10_state.md R15, 40_sequencer_primitives.md R57). -/
def errSet (e : Byte) (n : Cause) : Byte := e ||| errMask n

/-- ERR after a host write of `v`: `{0b000, err_wdata[4:0]}` (60_exceptions.md R80). -/
def errWritten (v : Byte) : Byte := v &&& errDefined

/-- The causes whose timeout zeroes RES: the two reads (40_sequencer_primitives.md R57). -/
def causeIsRead : Cause → Bool
  | .start => false
  | .address => false
  | .byte => false
  | .readAck => true
  | .readNack => true

end Sys2Proof.Machine
end

