-- ==== Sys2Proof/Machine/Ops.lean ====
section
/-! DEFINITION. The named operations every command is built from (40_sequencer_primitives.md): the peripheral's answers,
RegRead and RegWrite (20_memory.md R26), accept, completion, Trigger, the small-step poll and raise Timeout(n), the block's
one exception; and what the host does in a step (ERR write, reset). -/

namespace Sys2Proof.Machine

/-! ### The environment -/

/-- What a read of `r` answers, the environment after it, and the number of free values drawn (20_memory.md R42).
`n` is how many were drawn before. The reference environments answer CR with no bit but INT_B set, and DR from their
list; every answer they do not settle is a free value (log 4, log 5). -/
def envAnswer (c : Config) (n : Nat) : Env → PReg → Byte × Env × Nat
  | .free (v :: vs), _ => (v, .free vs, n)
  | .free [], _ => (freeAnswer n, .free [], n + 1)
  | .dead, .CR => (0#8, .dead, n)
  | .dead, _ => (freeAnswer n, .dead, n + 1)
  | .delay k d seen, .CR => (if k ≤ seen + 1 then mInt c else 0#8, .delay k d (seen + 1), n)
  | .delay k (v :: vs) seen, .DR => (v, .delay k vs seen, n)
  | .delay k d seen, _ => (freeAnswer n, .delay k d seen, n + 1)

/-- A trigger write starts the count of ENV_DELAY anew ("after each trigger write", 20_memory.md R42). -/
def envTriggered : Env → Env
  | .free vs => .free vs
  | .dead => .dead
  | .delay k d _ => .delay k d 0

/-- `ENV_RESPONSIVE(d)` (20_memory.md R42). -/
def envResponsive (d : List Byte) : Env := .delay 1 d 0

/-! ### Events and register accesses -/

/-- Append one event to the run's events. -/
def emit (e : Event) (s : State) : State := { s with events := s.events ++ [e] }

/-- `RegWrite(r, v)` (20_memory.md R26). -/
def regWrite (r : PReg) (v : Byte) (s : State) : State := emit (.write r v) s

/-- `RegRead(r)`: the answer, and the state with `R(r, v)` recorded (20_memory.md R26). -/
def regRead (r : PReg) (s : State) : Byte × State :=
  let a := envAnswer s.cfg.raw s.draws s.env r
  (a.1, emit (.read r a.1) { s with env := a.2.1, draws := a.2.2 })

/-! ### Accept, control transfer, completion -/

/-- The first phase of an opcode (40_sequencer_primitives.md R52); a reserved one has none and stays IDLE (30_encoding.md R48). -/
def firstPhase (op : BitVec 3) : Phase :=
  match op.toNat with
  | 0 => .i1
  | 1 => .s1
  | 2 => .p1
  | 3 => .b1
  | 4 => .a1
  | 5 => .n1
  | _ => .idle

/-- Accept a command word (40_sequencer_primitives.md R52). -/
def accept (cw : CmdWord) (s : State) : State :=
  emit (.accept cw) { s with op := opField cw, arg := argField cw, ph := firstPhase (opField cw) }

/-- `PH <- p`. -/
def goto (p : Phase) (s : State) : State := { s with ph := p }

/-- `PH <- IDLE; Done` (40_sequencer_primitives.md R53), for the commands without a result. -/
def complete (s : State) : State := emit (.done none) (goto .idle s)

/-- `RES <- v; PH <- IDLE; Done(v)` (40_sequencer_primitives.md R53), for the two reads. -/
def completeRead (v : Byte) (s : State) : State := emit (.done (some v)) (goto .idle { s with res := v })

/-! ### Trigger, timeout, poll -/

/-- `Trigger(m)`: the control-register write and the load of the poll budget, one step (40_sequencer_primitives.md R54). -/
def trigger (m : Byte) (s : State) : State :=
  { regWrite .CR m s with cnt := toBudgetCount s.cfg.raw, env := envTriggered s.env }

/-- TAKING THE EXCEPTION: `raise Timeout(n)` (40_sequencer_primitives.md R57, 60_exceptions.md R77). ERR[n] is set; the two
reads return 0x00; the command ends. Nothing is saved, and there is no handler and no return (60_exceptions.md R78). -/
def raiseTimeout (n : Cause) (s : State) : State :=
  let t := emit (.timeout n) { s with err := errSet s.err n }
  if causeIsRead n then completeRead 0x00#8 t else complete t

/-- One step of a poll phase with cause `n` and success continuation `ok` (40_sequencer_primitives.md R56). -/
def pollStep (n : Cause) (ok : State → State) (s : State) : State :=
  if s.cnt = 0#17 then raiseTimeout n s
  else
    let a := regRead .CR s
    if flagSet s.cfg.raw a.1 then ok a.2 else { a.2 with cnt := a.2.cnt - 1#17 }

/-- The last step of a read command: `v <- RegRead(DR); RES <- v; Done(v)` (44_read.md R66, R67). -/
def readData (s : State) : State :=
  let a := regRead .DR s
  completeRead a.1 a.2

/-! ### The host's side of a step -/

/-- A step in which no input port is driven. -/
def quietInput : HostInput := ⟨false, false, 0#11, false, 0#8⟩

/-- A step in which the host offers `cw` and nothing else. -/
def offer (cw : CmdWord) : HostInput := ⟨false, true, cw, false, 0#8⟩

/-- What the input ports carry in the coming step; past the end of the list nothing is driven (log 6). -/
def hostNow (s : State) : HostInput := s.host.headD quietInput

/-- The step begins: its port values are used up, and the events before it are marked off (log 7). -/
def beginStep (s : State) : State := { s with host := s.host.tail, mark := s.events.length }

/-- The host's write of ERR in an IDLE step (60_exceptions.md R80). -/
def hostErrWrite (h : HostInput) (s : State) : State :=
  if h.errWr then emit (.errWrite h.errWdata) { s with err := errWritten h.errWdata } else s

/-- Reset (70_reset_and_hazards.md R86, 10_state.md R23): the six registers, no access to the peripheral, no Done. The
configuration, the environment and the record of the run stay (log 16). -/
def applyReset (s : State) : State :=
  emit .reset
    { s with err := 0x00#8, cnt := 0#17, ph := .idle, op := 0#3, arg := 0x00#8, res := 0x00#8 }

/-- The command in flight, read off PH, with the latched ARG as its operand byte (10_state.md R17, R18; log 10). -/
def inFlight (p : Phase) (arg : Byte) : Option Instr :=
  match p with
  | .idle => none
  | .i1 => some (.init arg)
  | .i2 => some (.init arg)
  | .i3 => some (.init arg)
  | .s1 => some (.start arg)
  | .s2 => some (.start arg)
  | .s3 => some (.start arg)
  | .s4 => some (.start arg)
  | .s5 => some (.start arg)
  | .p1 => some (.stop arg)
  | .b1 => some (.byte arg)
  | .b2 => some (.byte arg)
  | .b3 => some (.byte arg)
  | .a1 => some (.readAck arg)
  | .a2 => some (.readAck arg)
  | .a3 => some (.readAck arg)
  | .n1 => some (.readNack arg)
  | .n2 => some (.readNack arg)
  | .n3 => some (.readNack arg)

end Sys2Proof.Machine
end

