-- ==== Sys2Proof/Machine/Byte.lean ====
section
/-! DEFINITION. BYTE (43_byte.md R65), as one step chosen by PH (see Machine/Init.lean; log 8). -/

namespace Sys2Proof.Machine

/-- The steps of BYTE: accept, B1, B2, B3 (40_sequencer_primitives.md R58). The data byte is the latched ARG (R65). -/
def byteSteps (cw : CmdWord) (s : State) : State :=
  match s.ph with
  | .idle => accept cw s
  | .b1 => goto .b2 (regWrite .DR s.arg s)
  | .b2 => goto .b3 (trigger (cwXfer s.cfg.raw) s)
  | .b3 => pollStep .byte complete s
  | _ => s

def execByte (d : Byte) (s : State) : Host.Outcome State Fault Refusal :=
  .next (byteSteps (encode (.byte d)) s)

end Sys2Proof.Machine
end

