-- ==== Sys2Proof/Machine/Init.lean ====
section
/-! DEFINITION. INIT (41_init.md R62). A meaning is one step of the command, chosen by PH as the phase table
(40_sequencer_primitives.md R58) says: offered in IDLE it is accepted (R52), in a phase of its own it does that phase's
work. In a phase of another command it is not accepted and does nothing (R52; log 8). -/

namespace Sys2Proof.Machine

/-- The steps of INIT: accept, I1, I2, I3 (40_sequencer_primitives.md R58). -/
def initSteps (cw : CmdWord) (s : State) : State :=
  match s.ph with
  | .idle => accept cw s
  | .i1 => goto .i2 (regWrite .SR (psByte s.cfg.raw) s)
  | .i2 => goto .i3 (regWrite .BR (brDivByte s.cfg.raw) s)
  | .i3 => complete (regWrite .CR (cwEnable s.cfg.raw) s)
  | _ => s

def execInit (ign : Byte) (s : State) : Host.Outcome State Fault Refusal :=
  .next (initSteps (encode (.init ign)) s)

end Sys2Proof.Machine
end

