-- ==== Sys2Proof/Machine/StartStop.lean ====
section
/-! DEFINITION. START and STOP (42_start_stop.md R63, R64), each as one step chosen by PH (see Machine/Init.lean; log 8). -/

namespace Sys2Proof.Machine

/-- The steps of START: accept, S1 to S5 (40_sequencer_primitives.md R58). The address byte is the latched ARG (R63). -/
def startSteps (cw : CmdWord) (s : State) : State :=
  match s.ph with
  | .idle => accept cw s
  | .s1 => goto .s2 (trigger (cwStart s.cfg.raw) s)
  | .s2 => pollStep .start (goto .s3) s
  | .s3 => goto .s4 (regWrite .DR s.arg s)
  | .s4 => goto .s5 (trigger (cwXfer s.cfg.raw) s)
  | .s5 => pollStep .address complete s
  | _ => s

/-- The steps of STOP: accept, P1; a plain write, no budget loaded, no poll (42_start_stop.md R64). -/
def stopSteps (cw : CmdWord) (s : State) : State :=
  match s.ph with
  | .idle => accept cw s
  | .p1 => complete (regWrite .CR (cwStop s.cfg.raw) s)
  | _ => s

def execStart (a : Byte) (s : State) : Host.Outcome State Fault Refusal :=
  .next (startSteps (encode (.start a)) s)

def execStop (ign : Byte) (s : State) : Host.Outcome State Fault Refusal :=
  .next (stopSteps (encode (.stop ign)) s)

end Sys2Proof.Machine
end

