-- ==== Sys2Proof/Machine/Aliases.lean ====
section
/-! DEFINITION. The alias layer (45_aliases.md R68 to R71): each spelling does exactly what its delegate does, with its
delegate's word. -/

namespace Sys2Proof.Machine

/-- TX_START is INIT (45_aliases.md R68): it issues no START condition. -/
def execTxStart (ign : Byte) (s : State) : Host.Outcome State Fault Refusal :=
  .next (initSteps (encode (.txStart ign)) s)

/-- TX_ADDRESS is START (45_aliases.md R69). -/
def execTxAddress (a : Byte) (s : State) : Host.Outcome State Fault Refusal :=
  .next (startSteps (encode (.txAddress a)) s)

/-- TX_BYTE is BYTE (45_aliases.md R70). -/
def execTxByte (d : Byte) (s : State) : Host.Outcome State Fault Refusal :=
  .next (byteSteps (encode (.txByte d)) s)

/-- TX_STOP is STOP (45_aliases.md R71). -/
def execTxStop (ign : Byte) (s : State) : Host.Outcome State Fault Refusal :=
  .next (stopSteps (encode (.txStop ign)) s)

end Sys2Proof.Machine
end

