-- ==== Sys2Proof/Machine/Read.lean ====
section
/-! DEFINITION. READACK and READNACK (44_read.md R66, R67), each as one step chosen by PH (see Machine/Init.lean; log 8).
They differ in the acknowledge-enable bit of the trigger write and in the cause of the timeout. -/

namespace Sys2Proof.Machine

/-- The steps of READACK: accept, A1, A2, A3 (40_sequencer_primitives.md R58). -/
def readAckSteps (cw : CmdWord) (s : State) : State :=
  match s.ph with
  | .idle => accept cw s
  | .a1 => goto .a2 (trigger (cwXferAck s.cfg.raw) s)
  | .a2 => pollStep .readAck (goto .a3) s
  | .a3 => readData s
  | _ => s

/-- The steps of READNACK: accept, N1, N2, N3 (40_sequencer_primitives.md R58). -/
def readNackSteps (cw : CmdWord) (s : State) : State :=
  match s.ph with
  | .idle => accept cw s
  | .n1 => goto .n2 (trigger (cwXfer s.cfg.raw) s)
  | .n2 => pollStep .readNack (goto .n3) s
  | .n3 => readData s
  | _ => s

def execReadAck (ign : Byte) (s : State) : Host.Outcome State Fault Refusal :=
  .next (readAckSteps (encode (.readAck ign)) s)

def execReadNack (ign : Byte) (s : State) : Host.Outcome State Fault Refusal :=
  .next (readNackSteps (encode (.readNack ign)) s)

end Sys2Proof.Machine
end

