-- ==== Sys2Proof/Machine/Dispatch.lean ====
section
/-! DEFINITION. One arm per constructor of Instr (rows of spec/opcode_table.json). -/

namespace Sys2Proof.Machine

def exec (i : Instr) (s : State) : Host.Outcome State Fault Refusal :=
  match i with
  -- commands (30_encoding.md R47)
  | .init ign => Sys2Proof.Machine.execInit ign s
  | .start a => Sys2Proof.Machine.execStart a s
  | .stop ign => Sys2Proof.Machine.execStop ign s
  | .byte d => Sys2Proof.Machine.execByte d s
  | .readAck ign => Sys2Proof.Machine.execReadAck ign s
  | .readNack ign => Sys2Proof.Machine.execReadNack ign s
  -- other spellings (45_aliases.md)
  | .txStart ign => Sys2Proof.Machine.execTxStart ign s
  | .txAddress a => Sys2Proof.Machine.execTxAddress a s
  | .txByte d => Sys2Proof.Machine.execTxByte d s
  | .txStop ign => Sys2Proof.Machine.execTxStop ign s

end Sys2Proof.Machine
end

