-- ==== Sys2Proof/Machine/Cycle.lean ====
section
/-! DEFINITION. One step of the block with everything around exec (40_sequencer_primitives.md R51, R52, R58;
60_exceptions.md R80; 70_reset_and_hazards.md R86), and how a command word is put where the next step takes it. -/

namespace Sys2Proof.Machine

/-- The IDLE row of the phase table (40_sequencer_primitives.md R58) under input `h`: the ERR write if one is offered, then
the accept if a word is offered (R52, R80), else nothing. A reserved word is a refusal (30_encoding.md R48). -/
def idleStep (h : HostInput) (s : State) : Host.Outcome State Fault Refusal :=
  if h.cmdValid then
    match decode h.cmdWord with
    | .instr i => exec i (hostErrWrite h s)
    | .reserved _ => .refused (.reservedCommand h.cmdWord)
    | .tooWide => .refused (.reservedCommand h.cmdWord)
  else .next (hostErrWrite h s)

/-- One step. Reset wins over everything (70_reset_and_hazards.md R86). With a command in flight the host's offer and ERR
write are ignored (40_sequencer_primitives.md R52, 60_exceptions.md R80) and the command's phase is carried out. -/
def cycle (s : State) : Host.Outcome State Fault Refusal :=
  let h := hostNow s
  let t := beginStep s
  if h.rst then .next (applyReset t)
  else
    match inFlight t.ph t.arg with
    | none => idleStep h t
    | some i => exec i t

/-- `s` about to take the command word `cw`: IDLE, with the word offered in the next step and no other input driven
(log 14). -/
def loadCommand (s : State) (cw : CmdWord) : State :=
  { s with ph := .idle, host := offer cw :: s.host.tail }

end Sys2Proof.Machine
end

