-- ==== Sys2Proof/Machine/Step.lean ====
section
/-! DEFINITION. The step, and where it takes its next command word from. -/

namespace Sys2Proof.Machine

def step (s : State) : Host.Outcome State Fault Refusal := cycle s

/-- `s` with the command word of the `nbits` low bits of `w` offered in the very next step, which takes it (log 14). -/
def State.withFetchWord (s : State) (nbits w : Nat) : State :=
  loadCommand s (BitVec.ofNat 11 (w % 2 ^ nbits))

end Sys2Proof.Machine
end

