-- ==== Sys2Proof/Machine/Assembler.lean ====
section
/-! DEFINITION. The textual form of commands (30_encoding.md R50): DOC0's call syntax, statements separated by `;`, an
operand an integer literal 0..255, decimal or hexadecimal, mnemonics case-sensitive. Text is a list of characters. What R50
leaves open of the text is the model's choice: white space (log 20), a statement that binds a read's value (log 25), the
spelling of a literal in a text (log 26) and in what the disassembler prints (log 27). -/

namespace Sys2Proof.Machine

/-- The value of a digit in base 10 or 16. -/
def digitValue (base : Nat) (c : Char) : Option Nat :=
  let n := c.toNat
  if 48 ≤ n ∧ n ≤ 57 then some (n - 48)
  else if base = 16 ∧ 97 ≤ n ∧ n ≤ 102 then some (n - 87)
  else if base = 16 ∧ 65 ≤ n ∧ n ≤ 70 then some (n - 55)
  else none

/-- The number a list of digits spells, most significant first, after the digits worth `acc`. -/
def digitsValue (base : Nat) : List Char → Nat → Option Nat
  | [], acc => some acc
  | c :: cs, acc =>
    match digitValue base c with
    | some d => digitsValue base cs (acc * base + d)
    | none => none

/-- An operand: an integer literal 0..255, decimal or with `0x` hexadecimal (30_encoding.md R50). DESIGN CHOICE (log 26):
leading zeros are allowed in any number and change nothing, so `010` is decimal ten and `0x0005` is five; the prefix is
`0x`, not `0X`; there is no sign. -/
def parseOperand (cs : List Char) : Option Byte :=
  let value :=
    match cs with
    | '0' :: 'x' :: c :: rest => digitsValue 16 (c :: rest) 0
    | c :: rest => digitsValue 10 (c :: rest) 0
    | [] => none
  match value with
  | some n => if n ≤ 255 then some (BitVec.ofNat 8 n) else none
  | none => none

/-- Spaces and line breaks around a statement carry no meaning (log 20). -/
def isBlankChar (c : Char) : Bool := c == ' ' || c == '\n' || c == '\t'

def trimBlank (cs : List Char) : List Char :=
  ((cs.dropWhile isBlankChar).reverse.dropWhile isBlankChar).reverse

/-- Text before the first `c`, and after it if there is one. -/
def splitAtChar (c : Char) : List Char → List Char × Option (List Char)
  | [] => ([], none)
  | x :: xs =>
    if x = c then ([], some xs)
    else ((x :: (splitAtChar c xs).1), (splitAtChar c xs).2)

/-- The statements of a program: the pieces between `;`. -/
def statements : List Char → List (List Char)
  | [] => [[]]
  | x :: xs =>
    if x = ';' then [] :: statements xs
    else
      match statements xs with
      | [] => [[x]]
      | p :: ps => (x :: p) :: ps

/-- A command without operand by its name (30_encoding.md R50); the assembler emits `arg` = 0x00 (R45). -/
def plainCommand (name : List Char) : Option Instr :=
  if name = ['i', 'n', 'i', 't'] then some (.init 0#8)
  else if name = ['s', 't', 'o', 'p'] then some (.stop 0#8)
  else if name = ['r', 'e', 'a', 'd', 'A', 'c', 'k'] then some (.readAck 0#8)
  else if name = ['r', 'e', 'a', 'd', 'N', 'A', 'c', 'k'] then some (.readNack 0#8)
  else if name = ['t', 'x', '_', 's', 't', 'a', 'r', 't'] then some (.txStart 0#8)
  else if name = ['t', 'x', '_', 's', 't', 'o', 'p'] then some (.txStop 0#8)
  else none

/-- A command with an operand by its name (30_encoding.md R50). -/
def operandCommand (name : List Char) (v : Byte) : Option Instr :=
  if name = ['s', 't', 'a', 'r', 't'] then some (.start v)
  else if name = ['b', 'y', 't', 'e'] then some (.byte v)
  else if name = ['t', 'x', '_', 'a', 'd', 'd', 'r', 'e', 's', 's'] then some (.txAddress v)
  else if name = ['t', 'x', '_', 'b', 'y', 't', 'e'] then some (.txByte v)
  else none

/-- A command `name()` or `name(literal)` (30_encoding.md R50). -/
def parseCall (cs : List Char) : Option Instr :=
  match splitAtChar '(' (trimBlank cs) with
  | (_, none) => none
  | (name, some rest) =>
    match splitAtChar ')' rest with
    | ([], some []) => plainCommand name
    | (lit, some []) =>
      match parseOperand lit with
      | some v => operandCommand name v
      | none => none
    | (_, _) => none

/-- A character of a host variable's name (log 25). -/
def isNameChar (c : Char) : Bool :=
  let n := c.toNat
  (97 ≤ n && n ≤ 122) || (65 ≤ n && n ≤ 90) || (48 ≤ n && n ≤ 57) || n == 95

/-- A host variable's name: letters, digits and `_`, not starting with a digit (log 25). -/
def isHostName : List Char → Bool
  | [] => false
  | c :: cs => (digitValue 10 c).isNone && (c :: cs).all isNameChar

/-- A command that has a value to bind: the two reads (30_encoding.md R50, "its value is the result byte"). -/
def bindable : Instr → Bool
  | .readAck _ => true
  | .readNack _ => true
  | .init _ => false
  | .start _ => false
  | .stop _ => false
  | .byte _ => false
  | .txStart _ => false
  | .txAddress _ => false
  | .txByte _ => false
  | .txStop _ => false

/-- One statement: a command (30_encoding.md R50), or `name = command` for a read, the form in which the texts of
95_test_vectors.md P2 and P3 give the result byte a name. R50 does not give that form. DESIGN CHOICE (log 25): it is
accepted, for the reads alone; the name is the host's and the word is the command's. -/
def parseStatement (cs : List Char) : Option Instr :=
  match splitAtChar '=' cs with
  | (_, none) => parseCall cs
  | (name, some rest) =>
    if isHostName (trimBlank name) then (parseCall rest).filter bindable else none

/-- The statements of a program in order; an empty piece (after the last `;`) is none (log 20). -/
def parseStatements : List (List Char) → Option (List Instr)
  | [] => some []
  | p :: ps =>
    if trimBlank p = [] then parseStatements ps
    else
      match parseStatement p, parseStatements ps with
      | some i, some is => some (i :: is)
      | _, _ => none

/-- The commands of a program text: a flat list (30_encoding.md R50). -/
def parseProgram (text : List Char) : Option (List Instr) := parseStatements (statements text)

/-- The command words of a program text. -/
def assemble (text : List Char) : Option (List CmdWord) := (parseProgram text).map (List.map encode)

/-- A hexadecimal digit as the disassembler prints it, `A` to `F` in upper case (log 27). -/
def hexDigit (n : Nat) : Char := if n < 10 then Char.ofNat (48 + n) else Char.ofNat (55 + n)

/-- A byte as the disassembler prints it. R50 allows decimal or `0x` hexadecimal and does not say which is printed. DESIGN
CHOICE (log 27): always `0x` and two upper-case digits, a leading zero included. -/
def hexByte (v : Byte) : List Char := ['0', 'x', hexDigit (v.toNat / 16), hexDigit (v.toNat % 16)]

/-- The disassembler: the non-alias spelling (30_encoding.md R50), an operand spelled as `hexByte` does (log 27), with no
blank and no `;`. -/
def disassemble (i : Instr) : List Char :=
  match delegate i with
  | .init _ => ['i', 'n', 'i', 't', '(', ')']
  | .start a => ['s', 't', 'a', 'r', 't', '('] ++ hexByte a ++ [')']
  | .stop _ => ['s', 't', 'o', 'p', '(', ')']
  | .byte d => ['b', 'y', 't', 'e', '('] ++ hexByte d ++ [')']
  | .readAck _ => ['r', 'e', 'a', 'd', 'A', 'c', 'k', '(', ')']
  | .readNack _ => ['r', 'e', 'a', 'd', 'N', 'A', 'c', 'k', '(', ')']
  | .txStart _ => []
  | .txAddress _ => []
  | .txByte _ => []
  | .txStop _ => []

end Sys2Proof.Machine
end

