-- ==== Sys2Proof/Machine/BigStep.lean ====
section
/-! DEFINITION. The big-step view (40_sequencer_primitives.md R55; 41_init.md R62 to 45_aliases.md R71): each command as
its pseudocode, from accept to completion, and the bounds of 40_sequencer_primitives.md R61. "A model may implement either
and prove them equal": the machine runs the small-step view, and an obligation says that the two agree. -/

namespace Sys2Proof.Machine

/-- The loop of `Poll()`; the first argument is CNT, which the loop counts down (40_sequencer_primitives.md R55). -/
def pollLoop : Nat → State → Bool × State
  | 0, s => (false, s)
  | k + 1, s =>
    let a := regRead .CR s
    if flagSet s.cfg.raw a.1 then (true, a.2) else pollLoop k { a.2 with cnt := a.2.cnt - 1#17 }

/-- `Poll()`: `true` is `ok`, `false` is `timeout` (40_sequencer_primitives.md R55). -/
def poll (s : State) : Bool × State := pollLoop s.cnt.toNat s

/-- INIT after accept (41_init.md R62). -/
def initBody (s : State) : State :=
  let c := s.cfg.raw
  complete (regWrite .CR (cwEnable c) (regWrite .BR (brDivByte c) (regWrite .SR (psByte c) s)))

/-- The second half of START (42_start_stop.md R63): the address phase. -/
def addressBody (s : State) : State :=
  match poll (trigger (cwXfer s.cfg.raw) (regWrite .DR s.arg s)) with
  | (false, t) => raiseTimeout .address t
  | (true, t) => complete t

/-- START after accept (42_start_stop.md R63). -/
def startBody (s : State) : State :=
  match poll (trigger (cwStart s.cfg.raw) s) with
  | (false, t) => raiseTimeout .start t
  | (true, t) => addressBody t

/-- STOP after accept (42_start_stop.md R64). -/
def stopBody (s : State) : State := complete (regWrite .CR (cwStop s.cfg.raw) s)

/-- BYTE after accept (43_byte.md R65). -/
def byteBody (s : State) : State :=
  match poll (trigger (cwXfer s.cfg.raw) (regWrite .DR s.arg s)) with
  | (false, t) => raiseTimeout .byte t
  | (true, t) => complete t

/-- READACK after accept (44_read.md R66). -/
def readAckBody (s : State) : State :=
  match poll (trigger (cwXferAck s.cfg.raw) s) with
  | (false, t) => raiseTimeout .readAck t
  | (true, t) => readData t

/-- READNACK after accept (44_read.md R67). -/
def readNackBody (s : State) : State :=
  match poll (trigger (cwXfer s.cfg.raw) s) with
  | (false, t) => raiseTimeout .readNack t
  | (true, t) => readData t

/-- The pseudocode of a command after accept. -/
def commandBody : Instr → State → State
  | .init _ => initBody
  | .start _ => startBody
  | .stop _ => stopBody
  | .byte _ => byteBody
  | .readAck _ => readAckBody
  | .readNack _ => readNackBody
  | .txStart _ => initBody
  | .txAddress _ => startBody
  | .txByte _ => byteBody
  | .txStop _ => stopBody

/-- The whole command, from accept to completion. -/
def commandEffect (i : Instr) (s : State) : State := commandBody i (accept (encode i) s)

/-- `n` steps of the command `i` (without the host's side of a step). -/
def execSteps (i : Instr) : Nat → State → Host.Outcome State Fault Refusal
  | 0, s => .next s
  | n + 1, s =>
    match exec i s with
    | .next t => execSteps i n t
    | .fault r => .fault r
    | .refused r => .refused r

/-- The cause a poll phase raises on timeout (60_exceptions.md R72); no other phase polls. -/
def phaseCause : Phase → Option Cause
  | .s2 => some .start
  | .s5 => some .address
  | .b3 => some .byte
  | .a2 => some .readAck
  | .n2 => some .readNack
  | _ => none

/-- The causes a command can raise (60_exceptions.md R72). -/
def causesOf : Instr → List Cause
  | .init _ => []
  | .start _ => [.start, .address]
  | .stop _ => []
  | .byte _ => [.byte]
  | .readAck _ => [.readAck]
  | .readNack _ => [.readNack]
  | .txStart _ => []
  | .txAddress _ => [.start, .address]
  | .txByte _ => [.byte]
  | .txStop _ => []

/-- The two read commands, the only ones that write RES (10_state.md R19). -/
def isReadCommand : Instr → Bool
  | .init _ => false
  | .start _ => false
  | .stop _ => false
  | .byte _ => false
  | .readAck _ => true
  | .readNack _ => true
  | .txStart _ => false
  | .txAddress _ => false
  | .txByte _ => false
  | .txStop _ => false

/-- The fewest steps from accept (exclusive) to completion (inclusive) (40_sequencer_primitives.md R61). -/
def minSteps : Instr → Nat
  | .init _ => 3
  | .start _ => 5
  | .stop _ => 1
  | .byte _ => 3
  | .readAck _ => 3
  | .readNack _ => 3
  | .txStart _ => 3
  | .txAddress _ => 5
  | .txByte _ => 3
  | .txStop _ => 1

/-- The most steps, with `b` = TO_BUDGET (40_sequencer_primitives.md R61). -/
def maxSteps (b : Nat) : Instr → Nat
  | .init _ => 3
  | .start _ => 2 * b + 4
  | .stop _ => 1
  | .byte _ => b + 3
  | .readAck _ => b + 2
  | .readNack _ => b + 2
  | .txStart _ => 3
  | .txAddress _ => 2 * b + 4
  | .txByte _ => b + 3
  | .txStop _ => 1

/-- The fewest register accesses (40_sequencer_primitives.md R61). -/
def minAccesses : Instr → Nat := minSteps

/-- The most register accesses, with `b` = TO_BUDGET (40_sequencer_primitives.md R61). -/
def maxAccesses (b : Nat) : Instr → Nat
  | .init _ => 3
  | .start _ => 2 * b + 3
  | .stop _ => 1
  | .byte _ => b + 2
  | .readAck _ => b + 2
  | .readNack _ => b + 2
  | .txStart _ => 3
  | .txAddress _ => 2 * b + 3
  | .txByte _ => b + 2
  | .txStop _ => 1

end Sys2Proof.Machine
end

