-- ==== Sys2Proof/Machine/History.lean ====
section
/-! DEFINITION. What is read off a state: the output ports (20_memory.md R25, 10_state.md R20, R22), the trace and its
transfer trigger events (20_memory.md R43), and the logical transaction state of the history, a ghost no rule of the
sequencer reads (40_sequencer_primitives.md R60). -/

namespace Sys2Proof.Machine

/-! ### Output ports -/

/-- `BUSY`, the predicate PH ≠ IDLE (10_state.md R20). -/
def busy (s : State) : Bool := decide (s.ph ≠ .idle)

/-- `cmd_ready`: 1 exactly when PH = IDLE (20_memory.md R25). -/
def cmdReadyPort (s : State) : Bool := decide (s.ph = .idle)

/-- `rsp_data`: RES, meaningful only with the Done of a read command (20_memory.md R25; log 23). -/
def rspDataPort (s : State) : Byte := s.res

/-- The events of the last step. -/
def lastEvents (s : State) : List Event := s.events.drop s.mark

/-- A `Done` or `Done(v)` event. -/
def isDone : Event → Bool
  | .done _ => true
  | _ => false

/-- A `W(r, v)` event. -/
def isWrite : Event → Bool
  | .write _ _ => true
  | _ => false

/-- An `R(r, v)` event. -/
def isRead : Event → Bool
  | .read _ _ => true
  | _ => false

/-- A peripheral access: the events a trace consists of (20_memory.md R43). -/
def isAccess (e : Event) : Bool := isWrite e || isRead e

/-- The peripheral register of an access. -/
def accessReg : Event → Option PReg
  | .write r _ => some r
  | .read r _ => some r
  | _ => none

/-- The byte of a write. -/
def writtenByte : Event → Option Byte
  | .write _ v => some v
  | _ => none

/-- `done`: 1 when the last step completed a command (40_sequencer_primitives.md R53). -/
def donePort (s : State) : Bool := (lastEvents s).any isDone

/-- `reg_wr`: the last step wrote a peripheral register. -/
def regWrPort (s : State) : Bool := (lastEvents s).any isWrite

/-- `reg_rd`: the last step read a peripheral register. -/
def regRdPort (s : State) : Bool := (lastEvents s).any isRead

/-- `reg_sel`, where the last step made an access (20_memory.md R27). -/
def regSelPort (s : State) : Option (BitVec 3) := ((lastEvents s).filterMap accessReg).head?.map regSelCode

/-- `reg_wdata`, where the last step made a write. -/
def regWdataPort (s : State) : Option Byte := ((lastEvents s).filterMap writtenByte).head?

/-! ### The trace -/

/-- The trace of a run: its `W` and `R` events in order (20_memory.md R43). -/
def traceOf (es : List Event) : List Event := es.filter isAccess

/-- A transfer trigger event: one of the three control-register writes that Trigger makes (20_memory.md R43). -/
def isTrigger (c : Config) : Event → Bool
  | .write .CR v => v == cwStart c || v == cwXfer c || v == cwXferAck c
  | _ => false

/-- How many transfer trigger events a list of events holds. -/
def triggerCount (c : Config) (es : List Event) : Nat := (es.filter (isTrigger c)).length

/-! ### The logical transaction state -/

/-- `TXN` (40_sequencer_primitives.md R60), with the third value "unknown" of 93_implementation_defined.md U2 (log 13). -/
inductive Txn where
  | idle | started | unknown
deriving DecidableEq, Repr

/-- What the history says so far: whether INIT has completed since reset, TXN, whether the last command to complete timed
out, the opcode in flight, and whether that one has timed out. -/
structure Protocol where
  inited : Bool
  txn : Txn
  lastTimedOut : Bool
  current : Option (BitVec 3)
  timedOut : Bool
deriving DecidableEq, Repr

/-- At reset (40_sequencer_primitives.md R60, 70_reset_and_hazards.md R87). -/
def protocolStart : Protocol := ⟨false, .idle, false, none, false⟩

/-- TXN after the command with opcode `op` completes (40_sequencer_primitives.md R60). A START that sets neither E_START
nor E_ADDR makes it STARTED, a STOP makes it IDLE, and a START from IDLE that times out does not start a transaction, so it
stays IDLE. From unknown "only STOP or INIT leads to a known state" (93_implementation_defined.md U2), so no START does. The
rows the spec leaves open (a START that times out in STARTED, an INIT in STARTED) are the model's choice, log 13. -/
def txnAfter (op : BitVec 3) (timedOut : Bool) (t : Txn) : Txn :=
  match op.toNat, timedOut, t with
  | 0, _, .started => .unknown
  | 0, _, _ => .idle
  | 1, _, .unknown => .unknown
  | 1, false, _ => .started
  | 1, true, .idle => .idle
  | 1, true, .started => .unknown
  | 2, _, _ => .idle
  | _, true, _ => .unknown
  | _, false, t => t

/-- The history goes on by one event. -/
def protocolNext (p : Protocol) : Event → Protocol
  | .accept cw => { p with current := some (opField cw), timedOut := false }
  | .timeout _ => { p with timedOut := true }
  | .done _ =>
    match p.current with
    | none => p
    | some op =>
      { inited := p.inited || op == 0#3, txn := txnAfter op p.timedOut p.txn, lastTimedOut := p.timedOut,
        current := none, timedOut := false }
  | .reset => protocolStart
  | .write _ _ => p
  | .read _ _ => p
  | .errWrite _ => p

/-- What the events of a run, oldest first, say. -/
def protocolOf (es : List Event) : Protocol := es.foldl protocolNext protocolStart

end Sys2Proof.Machine
end

