-- ==== Sys2Proof/Safety.lean ====
section
/-! DEFINITION. What counts as a safe state and a safe run, in the terms the claims use: the invariant of the block, and
the caller contract of 40_sequencer_primitives.md R60 as a predicate on the history ("a claim that needs more must take the
history follows the contract as a named premise"). -/

namespace Sys2Proof

open Machine

/-- The opcode whose phase `p` is; IDLE is no command's (10_state.md R17). -/
def phaseOpcode (p : Phase) : Option (BitVec 3) := (inFlight p 0#8).map opcode

/-- The invariant of the block: ERR bits 7..5 are 0 (10_state.md R14), CNT never exceeds TO_BUDGET
(40_sequencer_primitives.md R59), OP is a legal opcode and, with a command in flight, the opcode of the command PH is a
phase of (R52), and the mark lies within the events (log 7). -/
structure Inv (s : State) : Prop where
  err_reserved : s.err &&& 0xE0#8 = 0#8
  cnt_le : s.cnt.toNat ≤ toBudget s.cfg.raw
  op_legal : s.op.toNat ≤ 5
  op_phase : ∀ o, phaseOpcode s.ph = some o → s.op = o
  mark_le : s.mark ≤ s.events.length

/-- The caller contract allows the command with opcode `op` now (40_sequencer_primitives.md R60; 70_reset_and_hazards.md
R88, R92; log 13): INIT first or to recover from a timeout; START from IDLE, again too when the last one timed out; BYTE and
the reads in STARTED; STOP to end a transaction or to recover from a timeout. -/
def contractAllows (p : Protocol) (op : BitVec 3) : Bool :=
  match op.toNat, p.txn with
  | 0, .idle => !p.inited || p.lastTimedOut
  | 0, .unknown => true
  | 0, .started => false
  | 1, .idle => p.inited
  | 1, _ => false
  | 2, .idle => p.lastTimedOut
  | 2, _ => true
  | _, .started => true
  | _, _ => false

/-- The events from the history `p` on follow the contract. -/
def contractFrom : Protocol → List Event → Bool
  | _, [] => true
  | p, e :: es =>
    (match e with
      | .accept cw => contractAllows p (opField cw)
      | _ => true) && contractFrom (protocolNext p e) es

/-- The history follows the contract. -/
def followsContract (s : State) : Bool := contractFrom protocolStart s.events

/-- No reset is asserted in the next `n` steps. -/
def NoReset (n : Nat) (s : State) : Prop := ∀ h ∈ s.host.take n, h.rst = false

/-- What the block's control depends on is the same in `s` and `t`; ERR, OP, RES and the record of the run may differ
(10_state.md R15c, R18, R19). -/
structure SameControl (s t : State) : Prop where
  cnt : t.cnt = s.cnt
  ph : t.ph = s.ph
  arg : t.arg = s.arg
  cfg : t.cfg = s.cfg
  host : t.host = s.host
  env : t.env = s.env
  draws : t.draws = s.draws

end Sys2Proof
end

