-- ==== Sys2Proof/Certificates/Slice0/Obligations.lean ====
section
/-! DEFINITION. The statements for the provers. Each docstring names the rule of spec/ it formalises. -/

open Sys2Proof Sys2Proof.Machine

/-! ### Helpers the statements share -/

/-- `ev` is what happened on the way from `s` to `t`: the events of `t` are those of `s` and then `ev`. -/
def Sys2Proof.Claims.Happened (s t : State) (ev : List Event) : Prop := t.events = s.events ++ ev

/-- The instruction `i` in the poll phase `p` (40_sequencer_primitives.md R56): with CNT = 0 it ends in `timedOut`; else it
makes one CR read, and goes on as `ok` says when bit INT_B of the answer is 1, with CNT one less when it is 0. -/
def Sys2Proof.Claims.PollsIn (i : Instr) (p : Phase) (s timedOut : State) (ok : State → State) : Prop :=
  s.ph = p →
    (s.cnt = 0#17 → exec i s = .next timedOut) ∧
    (s.cnt ≠ 0#17 → ∀ v t, regRead .CR s = (v, t) →
      exec i s = .next (if v.getLsbD s.cfg.raw.intB.val then ok t else { t with cnt := s.cnt - 1#17 }))

/-- The accesses the phase table allows in a step that begins in phase `p` (20_memory.md R35): register, and `true` for a
write. -/
def Sys2Proof.Claims.matrix : Phase → List (PReg × Bool)
  | .idle => []
  | .i1 => [(.SR, true)]
  | .i2 => [(.BR, true)]
  | .i3 => [(.CR, true)]
  | .s1 => [(.CR, true)]
  | .s2 => [(.CR, false)]
  | .s3 => [(.DR, true)]
  | .s4 => [(.CR, true)]
  | .s5 => [(.CR, false)]
  | .p1 => [(.CR, true)]
  | .b1 => [(.DR, true)]
  | .b2 => [(.CR, true)]
  | .b3 => [(.CR, false)]
  | .a1 => [(.CR, true)]
  | .a2 => [(.CR, false)]
  | .a3 => [(.DR, false)]
  | .n1 => [(.CR, true)]
  | .n2 => [(.CR, false)]
  | .n3 => [(.DR, false)]

open Sys2Proof.Claims

/-! ### Configuration -/

/-- 00_scope.md R5, R7, R8: RATIO and BR_DIV are the floors of their quotients and BR_DIV is a byte (R33), in every
configuration that has a block. That PRESCALE is 4^PS_CODE is R6's reading from general knowledge of the family, not from
the source: the model's log 3 (PRESUMED). -/
def Obligations.ConfigurationArithmeticIsTheFloors : Prop :=
  ∀ c : ValidConfig,
    (ratio c.raw * c.raw.sclHz ≤ c.raw.cpuHz ∧ c.raw.cpuHz < (ratio c.raw + 1) * c.raw.sclHz) ∧
    c.raw.prescale = 4 ^ (psCode c.raw).toNat ∧
    (brDiv c.raw * (c.raw.prescale * 2) ≤ (ratio c.raw : Int) - 16 ∧
      (ratio c.raw : Int) - 16 < (brDiv c.raw + 1) * (c.raw.prescale * 2)) ∧
    0 ≤ brDiv c.raw ∧ brDiv c.raw ≤ 255 ∧ ((brDivByte c.raw).toNat : Int) = brDiv c.raw

/-- 00_scope.md R9 with R8 and 40_sequencer_primitives.md R59b: the budget's formula and bounds, and that loading it into
the 17 bits of CNT never truncates. -/
def Obligations.BudgetFitsTheCounter : Prop :=
  ∀ c : ValidConfig,
    toBudget c.raw = ratio c.raw * 2 ∧ 32 ≤ toBudget c.raw ∧ toBudget c.raw ≤ 65566 ∧
    (toBudgetCount c.raw).toNat = toBudget c.raw

/-- 20_memory.md R29, 00_scope.md R10: each control-register write has exactly its named bits, and no two of the five
writes are the same byte. -/
def Obligations.ControlWritesAreTheirNamedBits : Prop :=
  ∀ (c : ValidConfig) (k : Fin 8),
    ((cwEnable c.raw).getLsbD k.val = true ↔ k = c.raw.enB) ∧
    ((cwStart c.raw).getLsbD k.val = true ↔ k = c.raw.intB ∨ k = c.raw.staB ∨ k = c.raw.enB) ∧
    ((cwXfer c.raw).getLsbD k.val = true ↔ k = c.raw.intB ∨ k = c.raw.enB) ∧
    ((cwXferAck c.raw).getLsbD k.val = true ↔ k = c.raw.intB ∨ k = c.raw.eaB ∨ k = c.raw.enB) ∧
    ((cwStop c.raw).getLsbD k.val = true ↔ k = c.raw.intB ∨ k = c.raw.stoB ∨ k = c.raw.enB) ∧
    [cwEnable c.raw, cwStart c.raw, cwXfer c.raw, cwXferAck c.raw, cwStop c.raw].Nodup

/-! ### Encoding -/

/-- 30_encoding.md R44, R47, R50: decoding the word of an instruction gives it back, an alias as its delegate; so a
well-formed instruction gives itself. -/
def Obligations.DecodeOfEncodeIsTheDelegate : Prop :=
  ∀ i : Instr, decode (encode i) = .instr (delegate i) ∧ (i.wf = true ↔ delegate i = i) ∧ (delegate i).wf = true

/-- 30_encoding.md R47: a word encodes a row's command exactly when its masked bits match the row, for the six commands and
the reserved row. -/
def Obligations.WordEncodesRowExactlyWhenMasked : Prop :=
  ∀ cw : CmdWord,
    (cw &&& 0x700#11 = 0x000#11 ↔ ∃ x, decode cw = .instr (.init x)) ∧
    (cw &&& 0x700#11 = 0x100#11 ↔ ∃ x, decode cw = .instr (.start x)) ∧
    (cw &&& 0x700#11 = 0x200#11 ↔ ∃ x, decode cw = .instr (.stop x)) ∧
    (cw &&& 0x700#11 = 0x300#11 ↔ ∃ x, decode cw = .instr (.byte x)) ∧
    (cw &&& 0x700#11 = 0x400#11 ↔ ∃ x, decode cw = .instr (.readAck x)) ∧
    (cw &&& 0x700#11 = 0x500#11 ↔ ∃ x, decode cw = .instr (.readNack x)) ∧
    (cw &&& 0x600#11 = 0x600#11 ↔ decode cw = .reserved (cw.extractLsb' 8 3))

/-- 30_encoding.md R44, R46, R47, R48: every word that decodes is legal and is the word of the instruction it decodes to,
whose operand is CW[7:0]; the decoder gives the non-alias spelling (R50). That no bit is dropped of a format-N word either,
whose low byte R45 says is ignored, is the model's reading, log 11 (DEDUCED). -/
def Obligations.EncodeOfDecodeIsTheWord : Prop :=
  ∀ (cw : CmdWord) (i : Instr), decode cw = .instr i →
    encode i = cw ∧ i.wf = true ∧ cw.legal = true ∧ operand i = cw.extractLsb' 0 8

/-- 95_test_vectors.md 2.2: a few of the spec's own words. -/
def Obligations.SpecWordsDecode : Prop :=
  decode 0b00000000000#11 = .instr (.init 0x00#8) ∧
  decode 0b00110100000#11 = .instr (.start 0xA0#8) ∧
  decode 0b01000000000#11 = .instr (.stop 0x00#8) ∧
  decode 0b01100000101#11 = .instr (.byte 0x05#8) ∧
  decode 0b10010100101#11 = .instr (.readAck 0xA5#8) ∧
  decode 0b10100000000#11 = .instr (.readNack 0x00#8) ∧
  decode 0b11000000000#11 = .reserved 6#3 ∧
  decode 0b11111111111#11 = .reserved 7#3

/-- The treatment of 30_encoding.md R48 in a model (log 9): a step that is offered a word with CW[10:9] = 11 while IDLE, with
no reset, refuses it; no other step refuses anything. -/
def Obligations.ReservedWordsAreRefused : Prop :=
  ∀ (s : State) (r : Refusal),
    step s = .refused r ↔
      (s.ph = .idle ∧ (hostNow s).rst = false ∧ (hostNow s).cmdValid = true ∧
        (hostNow s).cmdWord &&& 0x600#11 = 0x600#11 ∧ r = .reservedCommand (hostNow s).cmdWord)

/-- 30_encoding.md R50: the assembler reads back what the disassembler prints, and the disassembler prints the non-alias
spelling, a format-N command with `arg` 0x00 (R45). How an operand is spelled in the text is the model's choice (log 27). -/
def Obligations.AssemblerReadsBackTheDisassembler : Prop :=
  ∀ i : Instr, parseProgram (disassemble i) = some [assembled (delegate i)]

/-! ### Reset -/

/-- 10_state.md R23, 70_reset_and_hazards.md R87: the state after reset and the ports it drives. -/
def Obligations.ResetStateHoldsTheSpecValues : Prop :=
  State.reset.err = 0x00#8 ∧ State.reset.ph = .idle ∧ State.reset.cnt = 0#17 ∧ State.reset.op = 0#3 ∧
  State.reset.arg = 0x00#8 ∧ State.reset.res = 0x00#8 ∧
  cmdReadyPort State.reset = true ∧ donePort State.reset = false ∧ errPort State.reset = 0x00#8 ∧
  rspDataPort State.reset = 0x00#8 ∧ regWrPort State.reset = false ∧ regRdPort State.reset = false ∧
  (protocolOf State.reset.events).txn = .idle

/-- 70_reset_and_hazards.md R86: reset from any state, in the middle of a command too, whatever else the host drives: the
six registers take their reset values, no access is made and there is no Done. -/
def Obligations.ResetWinsAndClearsTheSixRegisters : Prop :=
  ∀ s : State, (hostNow s).rst = true →
    ∃ t, step s = .next t ∧
      t.err = 0x00#8 ∧ t.ph = .idle ∧ t.cnt = 0#17 ∧ t.op = 0#3 ∧ t.arg = 0x00#8 ∧ t.res = 0x00#8 ∧
      t.events = s.events ++ [.reset] ∧ donePort t = false ∧ regWrPort t = false ∧ regRdPort t = false

/-! ### Invariants -/

/-- The invariant holds after reset (10_state.md R14, R23). -/
def Obligations.InvariantHoldsAtReset : Prop := Inv State.reset

/-- Every step keeps the invariant: ERR bits 7..5 stay 0 (10_state.md R14), CNT stays at most TO_BUDGET
(40_sequencer_primitives.md R59), OP stays the opcode of the command PH is a phase of (R52). -/
def Obligations.StepKeepsTheInvariant : Prop :=
  ∀ s t : State, Inv s → step s = .next t → Inv t

/-- 00_scope.md R4: the configuration is never changed while the block runs. -/
def Obligations.ConfigurationNeverChanges : Prop :=
  ∀ (n : Nat) (s t : State), Host.Core.run Sys2Proof.core n s = .next t → t.cfg = s.cfg

/-! ### What a step is -/

/-- 40_sequencer_primitives.md R51, R52, R58: with no reset, a step in IDLE that is offered a word that decodes runs exec of
the decoded instruction, after the ERR write of the same step; a step with a command in flight runs exec of that command,
and of no other. Around exec the step uses up the port values and marks the events off. -/
def Obligations.StepIsExecOfTheDecodedCommand : Prop :=
  (∀ (s : State) (i : Instr), s.ph = .idle → (hostNow s).rst = false → (hostNow s).cmdValid = true →
    decode (hostNow s).cmdWord = .instr i →
      step s = exec i (hostErrWrite (hostNow s) { s with host := s.host.tail, mark := s.events.length })) ∧
  (∀ (s : State) (i : Instr), (hostNow s).rst = false → inFlight s.ph s.arg = some i →
      step s = exec i { s with host := s.host.tail, mark := s.events.length }) ∧
  (∀ s : State, s.ph ≠ .idle → ∃ i, inFlight s.ph s.arg = some i)

/-- 40_sequencer_primitives.md R52, 60_exceptions.md R80: accept and the host's ERR write. In IDLE a legal word is latched,
and an ERR write of the same step is performed first, with the mask of R80; no access is made; CNT and RES stay. An ERR write
without a command is performed alone. With a command in flight `cmd_ready` is 0 and neither the offer nor the ERR write
changes anything. A word with opcode 6 or 7 is never accepted. -/
def Obligations.AcceptLatchesTheCommand : Prop :=
  (∀ s : State, s.ph = .idle → (hostNow s).rst = false → (hostNow s).cmdValid = true →
    ((hostNow s).cmdWord.extractLsb' 8 3).toNat ≤ 5 →
      ∃ t, step s = .next t ∧
        t.op = (hostNow s).cmdWord.extractLsb' 8 3 ∧
        t.arg = (hostNow s).cmdWord.extractLsb' 0 8 ∧
        [Phase.i1, .s1, .p1, .b1, .a1, .n1][((hostNow s).cmdWord.extractLsb' 8 3).toNat]? = some t.ph ∧
        t.cnt = s.cnt ∧ t.res = s.res ∧ t.cfg = s.cfg ∧ t.env = s.env ∧
        t.err = (if (hostNow s).errWr then (hostNow s).errWdata &&& 0x1F#8 else s.err) ∧
        t.events = s.events ++ (if (hostNow s).errWr then [.errWrite (hostNow s).errWdata] else []) ++
          [.accept (hostNow s).cmdWord]) ∧
  (∀ s : State, s.ph = .idle → (hostNow s).rst = false → (hostNow s).cmdValid = false → (hostNow s).errWr = true →
    step s = .next { s with
      err := (hostNow s).errWdata &&& 0x1F#8, host := s.host.tail, mark := s.events.length,
      events := s.events ++ [.errWrite (hostNow s).errWdata] }) ∧
  (∀ s : State, s.ph ≠ .idle → cmdReadyPort s = false ∧
    ∀ (v w : Bool) (cw : CmdWord) (x : Byte),
      step { s with
        host := { hostNow s with cmdValid := v, cmdWord := cw, errWr := w, errWdata := x } :: s.host.tail } =
          step { s with host := hostNow s :: s.host.tail }) ∧
  (∀ (s t : State) (cw : CmdWord), step s = .next t → .accept cw ∈ t.events.drop s.events.length →
    (cw.extractLsb' 8 3).toNat ≤ 5)

/-- 40_sequencer_primitives.md R58, IDLE row: with nothing offered, nothing but the step itself is recorded. -/
def Obligations.IdleWithNothingOfferedStaysIdle : Prop :=
  ∀ s : State, s.ph = .idle → (hostNow s).rst = false → (hostNow s).cmdValid = false → (hostNow s).errWr = false →
    step s = .next { s with host := s.host.tail, mark := s.events.length }

/-! ### The instructions, phase by phase -/

/-- 41_init.md R62, 45_aliases.md R68: INIT and TX_START, accept and I1 to I3, each with the whole next state. -/
def Obligations.InitRunsItsPhases : Prop :=
  ∀ (i : Instr) (g : Byte) (s : State), i = .init g ∨ i = .txStart g →
    (s.ph = .idle → exec i s = .next { s with
      op := 0#3, arg := g, ph := .i1, events := s.events ++ [.accept (0#3 ++ g)] }) ∧
    (s.ph = .i1 → exec i s = .next { s with
      ph := .i2, events := s.events ++ [.write .SR ((psCode s.cfg.raw).setWidth 8)] }) ∧
    (s.ph = .i2 → exec i s = .next { s with
      ph := .i3, events := s.events ++ [.write .BR (BitVec.ofInt 8 (brDiv s.cfg.raw))] }) ∧
    (s.ph = .i3 → exec i s = .next { s with
      ph := .idle, events := s.events ++ [.write .CR (mEn s.cfg.raw), .done none] })

/-- 42_start_stop.md R63, 45_aliases.md R69: START and TX_ADDRESS, accept and S1 to S5, each with the whole next state. -/
def Obligations.StartRunsItsPhases : Prop :=
  ∀ (i : Instr) (a : Byte) (s : State), i = .start a ∨ i = .txAddress a →
    (s.ph = .idle → exec i s = .next { s with
      op := 1#3, arg := a, ph := .s1, events := s.events ++ [.accept (1#3 ++ a)] }) ∧
    (s.ph = .s1 → exec i s = .next { s with
      ph := .s2, cnt := BitVec.ofNat 17 (ratio s.cfg.raw * 2), env := envTriggered s.env,
      events := s.events ++ [.write .CR (mInt s.cfg.raw ||| mSta s.cfg.raw ||| mEn s.cfg.raw)] }) ∧
    PollsIn i .s2 s
      { s with err := s.err ||| 0x01#8, ph := .idle, events := s.events ++ [.timeout .start, .done none] }
      (fun t => { t with ph := .s3 }) ∧
    (s.ph = .s3 → exec i s = .next { s with ph := .s4, events := s.events ++ [.write .DR s.arg] }) ∧
    (s.ph = .s4 → exec i s = .next { s with
      ph := .s5, cnt := BitVec.ofNat 17 (ratio s.cfg.raw * 2), env := envTriggered s.env,
      events := s.events ++ [.write .CR (mInt s.cfg.raw ||| mEn s.cfg.raw)] }) ∧
    PollsIn i .s5 s
      { s with err := s.err ||| 0x02#8, ph := .idle, events := s.events ++ [.timeout .address, .done none] }
      (fun t => { t with ph := .idle, events := t.events ++ [.done none] })

/-- 42_start_stop.md R64, 45_aliases.md R71: STOP and TX_STOP, accept and P1, each with the whole next state. -/
def Obligations.StopRunsItsPhases : Prop :=
  ∀ (i : Instr) (g : Byte) (s : State), i = .stop g ∨ i = .txStop g →
    (s.ph = .idle → exec i s = .next { s with
      op := 2#3, arg := g, ph := .p1, events := s.events ++ [.accept (2#3 ++ g)] }) ∧
    (s.ph = .p1 → exec i s = .next { s with
      ph := .idle,
      events := s.events ++ [.write .CR (mInt s.cfg.raw ||| mSto s.cfg.raw ||| mEn s.cfg.raw), .done none] })

/-- 43_byte.md R65, 45_aliases.md R70: BYTE and TX_BYTE, accept and B1 to B3, each with the whole next state. -/
def Obligations.ByteRunsItsPhases : Prop :=
  ∀ (i : Instr) (d : Byte) (s : State), i = .byte d ∨ i = .txByte d →
    (s.ph = .idle → exec i s = .next { s with
      op := 3#3, arg := d, ph := .b1, events := s.events ++ [.accept (3#3 ++ d)] }) ∧
    (s.ph = .b1 → exec i s = .next { s with ph := .b2, events := s.events ++ [.write .DR s.arg] }) ∧
    (s.ph = .b2 → exec i s = .next { s with
      ph := .b3, cnt := BitVec.ofNat 17 (ratio s.cfg.raw * 2), env := envTriggered s.env,
      events := s.events ++ [.write .CR (mInt s.cfg.raw ||| mEn s.cfg.raw)] }) ∧
    PollsIn i .b3 s
      { s with err := s.err ||| 0x04#8, ph := .idle, events := s.events ++ [.timeout .byte, .done none] }
      (fun t => { t with ph := .idle, events := t.events ++ [.done none] })

/-- 44_read.md R66: READACK, accept and A1 to A3, each with the whole next state. -/
def Obligations.ReadAckRunsItsPhases : Prop :=
  ∀ (g : Byte) (s : State),
    (s.ph = .idle → exec (.readAck g) s = .next { s with
      op := 4#3, arg := g, ph := .a1, events := s.events ++ [.accept (4#3 ++ g)] }) ∧
    (s.ph = .a1 → exec (.readAck g) s = .next { s with
      ph := .a2, cnt := BitVec.ofNat 17 (ratio s.cfg.raw * 2), env := envTriggered s.env,
      events := s.events ++ [.write .CR (mInt s.cfg.raw ||| mEa s.cfg.raw ||| mEn s.cfg.raw)] }) ∧
    PollsIn (.readAck g) .a2 s
      { s with err := s.err ||| 0x08#8, res := 0x00#8, ph := .idle,
               events := s.events ++ [.timeout .readAck, .done (some 0x00#8)] }
      (fun t => { t with ph := .a3 }) ∧
    (s.ph = .a3 → ∀ v t, regRead .DR s = (v, t) →
      exec (.readAck g) s = .next { t with res := v, ph := .idle, events := t.events ++ [.done (some v)] })

/-- 44_read.md R67: READNACK, accept and N1 to N3, each with the whole next state. -/
def Obligations.ReadNackRunsItsPhases : Prop :=
  ∀ (g : Byte) (s : State),
    (s.ph = .idle → exec (.readNack g) s = .next { s with
      op := 5#3, arg := g, ph := .n1, events := s.events ++ [.accept (5#3 ++ g)] }) ∧
    (s.ph = .n1 → exec (.readNack g) s = .next { s with
      ph := .n2, cnt := BitVec.ofNat 17 (ratio s.cfg.raw * 2), env := envTriggered s.env,
      events := s.events ++ [.write .CR (mInt s.cfg.raw ||| mEn s.cfg.raw)] }) ∧
    PollsIn (.readNack g) .n2 s
      { s with err := s.err ||| 0x10#8, res := 0x00#8, ph := .idle,
               events := s.events ++ [.timeout .readNack, .done (some 0x00#8)] }
      (fun t => { t with ph := .n3 }) ∧
    (s.ph = .n3 → ∀ v t, regRead .DR s = (v, t) →
      exec (.readNack g) s = .next { t with res := v, ph := .idle, events := t.events ++ [.done (some v)] })

/-- 45_aliases.md R68 to R71: an alias has its delegate's word and does exactly what its delegate does, step by step and as
a whole command. -/
def Obligations.AliasesAreTheirDelegates : Prop :=
  ∀ (x : Byte) (s : State),
    (encode (.txStart x) = encode (.init x) ∧ exec (.txStart x) s = exec (.init x) s ∧
      commandEffect (.txStart x) s = commandEffect (.init x) s) ∧
    (encode (.txAddress x) = encode (.start x) ∧ exec (.txAddress x) s = exec (.start x) s ∧
      commandEffect (.txAddress x) s = commandEffect (.start x) s) ∧
    (encode (.txByte x) = encode (.byte x) ∧ exec (.txByte x) s = exec (.byte x) s ∧
      commandEffect (.txByte x) s = commandEffect (.byte x) s) ∧
    (encode (.txStop x) = encode (.stop x) ∧ exec (.txStop x) s = exec (.stop x) s ∧
      commandEffect (.txStop x) s = commandEffect (.stop x) s)

/-- The model's choice (log 8), from 40_sequencer_primitives.md R52: an instruction executed while another command is in
flight is not accepted and does nothing. -/
def Obligations.CommandOfAnotherPhaseDoesNothing : Prop :=
  ∀ (i : Instr) (s : State) (o : BitVec 3), phaseOpcode s.ph = some o → o ≠ opcode i → exec i s = .next s

/-- The frame of every instruction (41_init.md R62 to 44_read.md R67, "State written" and "Flags written"): no instruction
changes the configuration or the host's side; OP and ARG change only at accept; RES changes only in the two reads; of ERR
only the bits of the instruction's own causes can change; INIT and STOP leave CNT and ask the peripheral nothing; events
are only added, and of accesses at most one. -/
def Obligations.ExecFrame : Prop :=
  ∀ (i : Instr) (s t : State), exec i s = .next t →
    t.cfg = s.cfg ∧ t.host = s.host ∧ t.mark = s.mark ∧
    (s.ph ≠ .idle → t.op = s.op ∧ t.arg = s.arg) ∧
    (isReadCommand i = false → t.res = s.res) ∧
    (t.err ^^^ s.err) &&& ~~~((causesOf i).foldl (fun m n => m ||| errMask n) 0#8) = 0#8 ∧
    (causesOf i = [] → t.cnt = s.cnt ∧ t.env = s.env ∧ t.draws = s.draws ∧ t.err = s.err) ∧
    (∃ ev, Happened s t ev ∧ (traceOf ev).length ≤ 1)

/-! ### Trigger -/

/-- 40_sequencer_primitives.md R54: the trigger phases write their control byte and load the whole budget into CNT, in one
step, with the poll next; the load does not truncate. -/
def Obligations.TriggerWritesAndLoadsTheFullBudget : Prop :=
  ∀ (s : State) (m : Byte), (hostNow s).rst = false →
    ((s.ph = .s1 ∧ m = cwStart s.cfg.raw) ∨ (s.ph = .s4 ∧ m = cwXfer s.cfg.raw) ∨ (s.ph = .b2 ∧ m = cwXfer s.cfg.raw) ∨
      (s.ph = .a1 ∧ m = cwXferAck s.cfg.raw) ∨ (s.ph = .n1 ∧ m = cwXfer s.cfg.raw)) →
    ∃ t, step s = .next t ∧ t.cnt.toNat = toBudget s.cfg.raw ∧ t.events = s.events ++ [.write .CR m] ∧
      (∃ n, phaseCause t.ph = some n) ∧ t.err = s.err ∧ t.op = s.op ∧ t.arg = s.arg ∧ t.res = s.res

/-! ### Timeouts and ERR -/

/-- 40_sequencer_primitives.md R57: `raise Timeout(n)`, in one step, from every poll phase whose budget is used up: one bit
of ERR is set, a read returns 0x00, the command ends with Done, and no access is made. -/
def Obligations.TimeoutSetsOneBitAndEndsTheCommand : Prop :=
  ∀ (s : State) (n : Cause), (hostNow s).rst = false → phaseCause s.ph = some n → s.cnt = 0#17 →
    ∃ t, step s = .next t ∧
      t.err = s.err ||| (1#8 <<< causeCode n) ∧
      t.res = (if causeCode n = 3 ∨ causeCode n = 4 then 0x00#8 else s.res) ∧
      t.ph = .idle ∧ t.cnt = s.cnt ∧ t.op = s.op ∧ t.arg = s.arg ∧ t.cfg = s.cfg ∧ t.env = s.env ∧
      traceOf t.events = traceOf s.events ∧ donePort t = true ∧
      t.events.getLast? = some (.done (if causeCode n = 3 ∨ causeCode n = 4 then some 0x00#8 else none))

/-- 10_state.md R15: ERR changes in a step with no reset only by one timeout bit, ORed in by the poll phase of its cause
with CNT = 0, or by the host's write in IDLE; so with no host write every bit that is 1 stays 1. -/
def Obligations.ErrIsStickyBetweenHostWrites : Prop :=
  ∀ s t : State, (hostNow s).rst = false → step s = .next t →
    (t.err = s.err ∨
      (∃ n, phaseCause s.ph = some n ∧ s.cnt = 0#17 ∧ t.err = s.err ||| (1#8 <<< causeCode n)) ∨
      (s.ph = .idle ∧ (hostNow s).errWr = true ∧ t.err = (hostNow s).errWdata &&& 0x1F#8)) ∧
    (s.ph ≠ .idle ∨ (hostNow s).errWr = false → t.err &&& s.err = s.err)

/-- 60_exceptions.md R80: the host's write of ERR replaces bits 4..0 and ignores bits 7..5 of the value, in IDLE; with a
command in flight it is ignored; offered together with a legal command both happen, the write first. -/
def Obligations.HostWriteOfErr : Prop :=
  (∀ s : State, s.ph = .idle → (hostNow s).rst = false → (hostNow s).errWr = true → (hostNow s).cmdValid = false →
    ∃ t, step s = .next t ∧ t.err = 0#3 ++ (hostNow s).errWdata.extractLsb' 0 5 ∧
      t.cnt = s.cnt ∧ t.ph = .idle ∧ t.op = s.op ∧ t.arg = s.arg ∧ t.res = s.res ∧ t.cfg = s.cfg ∧ t.env = s.env ∧
      t.events = s.events ++ [.errWrite (hostNow s).errWdata]) ∧
  (∀ (s : State) (i : Instr), s.ph = .idle → (hostNow s).rst = false → (hostNow s).errWr = true →
    (hostNow s).cmdValid = true → decode (hostNow s).cmdWord = .instr i →
    ∃ t, step s = .next t ∧ t.err = 0#3 ++ (hostNow s).errWdata.extractLsb' 0 5 ∧ t.ph ≠ .idle ∧
      t.op = (hostNow s).cmdWord.extractLsb' 8 3 ∧ t.arg = (hostNow s).cmdWord.extractLsb' 0 8 ∧
      t.events = s.events ++ [.errWrite (hostNow s).errWdata, .accept (hostNow s).cmdWord]) ∧
  (∀ (s : State) (w : Bool) (v : Byte), s.ph ≠ .idle →
    step { s with host := { hostNow s with errWr := w, errWdata := v } :: s.host.tail } =
      step { s with host := hostNow s :: s.host.tail })

/-- 60_exceptions.md R79, 10_state.md R14: what the host reads of ERR has bits 7..5 at 0 in every state and is ERR itself
in every state that meets the invariant. -/
def Obligations.HostReadOfErr : Prop :=
  ∀ s : State, errPort s &&& 0xE0#8 = 0#8 ∧ (Inv s → errPort s = s.err)

/-- 60_exceptions.md R76a: a whole command sets at most one ERR bit, one of its own causes, exactly when it times out. -/
def Obligations.CommandSetsAtMostOneErrBit : Prop :=
  ∀ (i : Instr) (s : State), ∃ ev, Happened s (commandEffect i s) ev ∧
    (((∀ n, .timeout n ∉ ev) ∧ (commandEffect i s).err = s.err) ∨
      (∃ n ∈ causesOf i, (∀ m, .timeout m ∈ ev ↔ m = n) ∧
        (commandEffect i s).err = s.err ||| (1#8 <<< causeCode n)))

/-! ### The interface to the peripheral -/

/-- 20_memory.md R26, R42: RegRead makes one event with the byte answered and changes no register of the block, and any byte
may be the answer; RegWrite makes one event with the byte handed over and changes nothing else. -/
def Obligations.RegAccessesAreSingleEvents : Prop :=
  (∀ (r : PReg) (s t : State) (v : Byte), regRead r s = (v, t) →
    t = { s with env := t.env, draws := t.draws, events := s.events ++ [.read r v] }) ∧
  (∀ (r : PReg) (s : State) (v : Byte), ∃ e t, regRead r { s with env := e } = (v, t)) ∧
  (∀ (r : PReg) (s : State) (v : Byte), regWrite r v s = { s with events := s.events ++ [.write r v] })

/-- 20_memory.md R35, R34, R33, R32: every access of a step is one the access matrix lists for the phase the step begins in;
so AR is never accessed, SR and BR are only written, and only by INIT. -/
def Obligations.AccessesFollowTheMatrix : Prop :=
  ∀ s t : State, step s = .next t → ∃ ev, Happened s t ev ∧
    (∀ r v, .write r v ∈ ev → (r, true) ∈ matrix s.ph) ∧ (∀ r v, .read r v ∈ ev → (r, false) ∈ matrix s.ph) ∧
    (∀ e ∈ ev, accessReg e ≠ some .AR)

/-- 40_sequencer_primitives.md R51, 20_memory.md R25, R27, R39: a step only adds events and makes at most one access, and
the ports show it. `reg_wr` is 1 exactly when the step made a write, and the write is W(r, v) exactly when `reg_sel` is the
code of r and `reg_wdata` is v; `reg_rd` is 1 exactly when it made a read, and the read is of r exactly when `reg_sel` is the
code of r; without an access `reg_sel` and without a write `reg_wdata` carry nothing. The codes are R27's. -/
def Obligations.StepMakesAtMostOneAccess : Prop :=
  [PReg.SR, .BR, .CR, .DR, .AR].map regSelCode = [0#3, 1#3, 2#3, 3#3, 4#3] ∧
  ∀ s t : State, step s = .next t →
    ∃ ev, Happened s t ev ∧ (traceOf ev).length ≤ 1 ∧
      (regWrPort t = true ↔ ∃ r v, .write r v ∈ ev) ∧
      (∀ r v, .write r v ∈ ev ↔
        regWrPort t = true ∧ regSelPort t = some (regSelCode r) ∧ regWdataPort t = some v) ∧
      (regRdPort t = true ↔ ∃ r v, .read r v ∈ ev) ∧
      (∀ r, (∃ v, .read r v ∈ ev) ↔ regRdPort t = true ∧ regSelPort t = some (regSelCode r)) ∧
      ¬ (regWrPort t = true ∧ regRdPort t = true) ∧
      (regSelPort t = none ↔ regWrPort t = false ∧ regRdPort t = false) ∧
      (regWdataPort t = none ↔ regWrPort t = false) ∧
      (∀ k, regSelPort t = some k → k.toNat ≤ 3)

/-- 20_memory.md R30: CR is read only in a poll phase, and of the byte read only bit INT_B matters: two answers with the same
bit give next states that differ only in the recorded answer. -/
def Obligations.OnlyTheCompletionFlagMatters : Prop :=
  (∀ (s t : State) (v : Byte), step s = .next t → .read .CR v ∈ t.events.drop s.events.length →
    ∃ n, phaseCause s.ph = some n) ∧
  (∀ (s t : State) (v v' : Byte) (rest : List Byte) (n : Cause), phaseCause s.ph = some n → s.cnt ≠ 0#17 →
    (hostNow s).rst = false → v.getLsbD s.cfg.raw.intB.val = v'.getLsbD s.cfg.raw.intB.val →
    step { s with env := .free (v :: rest) } = .next t →
    ∃ ev, t.events = s.events ++ .read .CR v :: ev ∧
      step { s with env := .free (v' :: rest) } = .next { t with events := s.events ++ .read .CR v' :: ev })

/-- 40_sequencer_primitives.md R53, 20_memory.md R25: with no reset, `done` pulses exactly in a step that takes PH from a
command's phase to IDLE, and `cmd_ready` is 1 exactly in IDLE. -/
def Obligations.DonePulsesAtCompletion : Prop :=
  ∀ s t : State, (hostNow s).rst = false → step s = .next t →
    (donePort t = true ↔ s.ph ≠ .idle ∧ t.ph = .idle) ∧ (cmdReadyPort t = true ↔ t.ph = .idle)

/-! ### Polls and whole commands -/

/-- 40_sequencer_primitives.md R55: the poll, big-step. After the answers `pre` with the flag clear, an answer `v` with the
flag set ends it with `ok` after exactly `pre.length + 1` reads and leaves CNT = TO_BUDGET - k + 1 for k reads; as many
clear answers as CNT end it with `timeout` after exactly that many reads, with CNT = 0. -/
def Obligations.PollReadsUntilTheFlagOrTheBudget : Prop :=
  ∀ (s : State) (pre rest : List Byte), (∀ x ∈ pre, x.getLsbD s.cfg.raw.intB.val = false) →
    (∀ v : Byte, pre.length < s.cnt.toNat → v.getLsbD s.cfg.raw.intB.val = true →
      poll { s with env := .free (pre ++ v :: rest) } =
        (true, { s with
          cnt := BitVec.ofNat 17 (s.cnt.toNat - (pre.length + 1) + 1), env := .free rest,
          events := s.events ++ (pre ++ [v]).map (.read .CR) }) ∧
      0 < s.cnt.toNat - (pre.length + 1) + 1) ∧
    (pre.length = s.cnt.toNat →
      poll { s with env := .free (pre ++ rest) } =
        (false, { s with cnt := 0#17, env := .free rest, events := s.events ++ pre.map (.read .CR) }))

/-- 40_sequencer_primitives.md R56, R58, R61: every command, an alias too, executed in IDLE and then step by step, ends
after a number of steps within the bounds, in the state its pseudocode gives, with PH = IDLE. -/
def Obligations.CommandStepsAreItsPseudocode : Prop :=
  ∀ (i : Instr) (s : State), s.ph = .idle →
    ∃ n, minSteps i ≤ n ∧ n ≤ maxSteps (toBudget s.cfg.raw) i ∧
      execSteps i (n + 1) s = .next (commandEffect i s) ∧ (commandEffect i s).ph = .idle

/-- The machine's run of a command is the big-step pseudocode of the command (40_sequencer_primitives.md R55 to R61). From
any IDLE state that is offered the word of `i`, with no reset in the steps the command may take, and whatever else the host
drives meanwhile, n + 1 steps (the accept and n steps of the command, n within the bounds) end in the state the pseudocode
gives after the ERR write of the accept step, and the n states in between (after 1 to n steps) are busy. -/
def Obligations.RunOfACommandIsItsPseudocode : Prop :=
  ∀ (i : Instr) (s : State), s.ph = .idle → (hostNow s).rst = false → (hostNow s).cmdValid = true →
    (hostNow s).cmdWord = encode i → NoReset (maxSteps (toBudget s.cfg.raw) i) (beginStep s) →
    ∃ n m, minSteps i ≤ n ∧ n ≤ maxSteps (toBudget s.cfg.raw) i ∧
      Host.Core.run Sys2Proof.core (n + 1) s =
        .next { commandEffect i (hostErrWrite (hostNow s) s) with host := s.host.drop (n + 1), mark := m } ∧
      (∀ j t, 0 < j → j ≤ n → Host.Core.run Sys2Proof.core j s = .next t → t.ph ≠ .idle)

/-- 40_sequencer_primitives.md R61, 70_reset_and_hazards.md R96: the block never hangs. From every busy state that meets the
invariant, with no reset, PH is IDLE again after at most 2·TO_BUDGET + 4 steps. -/
def Obligations.BusyBlockComesBackToIdle : Prop :=
  ∀ s : State, Inv s → s.ph ≠ .idle → NoReset (2 * toBudget s.cfg.raw + 4) s →
    ∃ n t, 0 < n ∧ n ≤ 2 * toBudget s.cfg.raw + 4 ∧ Host.Core.run Sys2Proof.core n s = .next t ∧ t.ph = .idle

/-- 40_sequencer_primitives.md R61: the number of register accesses of each command. -/
def Obligations.CommandAccessesAreBounded : Prop :=
  ∀ (i : Instr) (s : State), ∃ ev, Happened s (commandEffect i s) ev ∧
    minAccesses i ≤ (traceOf ev).length ∧ (traceOf ev).length ≤ maxAccesses (toBudget s.cfg.raw) i

/-- 10_state.md R19, 20_memory.md R31: RES after a command. Only the reads write it: the byte of their one DR read, or 0x00
on timeout, and then DR is not read. -/
def Obligations.ResultIsTheByteReadOrZero : Prop :=
  ∀ (i : Instr) (s : State), ∃ ev, Happened s (commandEffect i s) ev ∧
    (isReadCommand i = false → (commandEffect i s).res = s.res) ∧
    (isReadCommand i = true →
      (∃ v, ev.filter (fun e => accessReg e == some .DR) = [.read .DR v] ∧ (commandEffect i s).res = v ∧
        (∀ n, .timeout n ∉ ev)) ∨
      (ev.filter (fun e => accessReg e == some .DR) = [] ∧ (commandEffect i s).res = 0x00#8 ∧ ∃ n, .timeout n ∈ ev))

/-- 40_sequencer_primitives.md R53: a command signals Done once, as its last event, with RES for a read and without a value
for the others. -/
def Obligations.CommandSignalsDoneOnceAndLast : Prop :=
  ∀ (i : Instr) (s : State), ∃ ev, Happened s (commandEffect i s) ev ∧
    ev.filter isDone = [.done (if isReadCommand i then some (commandEffect i s).res else none)] ∧
    ev.getLast? = some (.done (if isReadCommand i then some (commandEffect i s).res else none))

/-- 20_memory.md R43: transfer trigger events of a command: none of INIT and STOP, one of BYTE and each read, two of START,
or one when its first poll times out. -/
def Obligations.TriggerEventsPerCommand : Prop :=
  ∀ (i : Instr) (s : State), ∃ ev, Happened s (commandEffect i s) ev ∧
    triggerCount s.cfg.raw ev =
      (match delegate i with
        | .start _ => if .timeout .start ∈ ev then 1 else 2
        | .byte _ => 1
        | .readAck _ => 1
        | .readNack _ => 1
        | _ => 0)

/-- 95_test_vectors.md S2, S4, S6 (20_memory.md R42, ENV_DEAD), in every configuration: each polling command times out after
exactly TO_BUDGET reads. -/
def Obligations.DeadControllerTimesOutEveryPoll : Prop :=
  ∀ (s : State) (x : Byte), s.env = .dead →
    Happened s (commandEffect (.start x) s)
      ([.accept (1#3 ++ x), .write .CR (cwStart s.cfg.raw)] ++ List.replicate (toBudget s.cfg.raw) (.read .CR 0#8) ++
        [.timeout .start, .done none]) ∧
    (commandEffect (.start x) s).err = s.err ||| 0x01#8 ∧
    Happened s (commandEffect (.byte x) s)
      ([.accept (3#3 ++ x), .write .DR x, .write .CR (cwXfer s.cfg.raw)] ++
        List.replicate (toBudget s.cfg.raw) (.read .CR 0#8) ++ [.timeout .byte, .done none]) ∧
    (commandEffect (.byte x) s).err = s.err ||| 0x04#8 ∧
    Happened s (commandEffect (.readAck x) s)
      ([.accept (4#3 ++ x), .write .CR (cwXferAck s.cfg.raw)] ++
        List.replicate (toBudget s.cfg.raw) (.read .CR 0#8) ++ [.timeout .readAck, .done (some 0x00#8)]) ∧
    (commandEffect (.readAck x) s).err = s.err ||| 0x08#8 ∧ (commandEffect (.readAck x) s).res = 0x00#8 ∧
    Happened s (commandEffect (.readNack x) s)
      ([.accept (5#3 ++ x), .write .CR (cwXfer s.cfg.raw)] ++
        List.replicate (toBudget s.cfg.raw) (.read .CR 0#8) ++ [.timeout .readNack, .done (some 0x00#8)]) ∧
    (commandEffect (.readNack x) s).err = s.err ||| 0x10#8 ∧ (commandEffect (.readNack x) s).res = 0x00#8

/-- 95_test_vectors.md S3, S5 (20_memory.md R42, ENV_RESPONSIVE), in every configuration: each polling command succeeds at its
first read, sets no bit, and a read returns the exact byte of the data register. -/
def Obligations.ResponsiveControllerNeverTimesOut : Prop :=
  ∀ (s : State) (x : Byte) (d : List Byte), s.env = envResponsive d →
    Happened s (commandEffect (.start x) s)
      [.accept (1#3 ++ x), .write .CR (cwStart s.cfg.raw), .read .CR (mInt s.cfg.raw), .write .DR x,
        .write .CR (cwXfer s.cfg.raw), .read .CR (mInt s.cfg.raw), .done none] ∧
    (commandEffect (.start x) s).err = s.err ∧
    Happened s (commandEffect (.byte x) s)
      [.accept (3#3 ++ x), .write .DR x, .write .CR (cwXfer s.cfg.raw), .read .CR (mInt s.cfg.raw), .done none] ∧
    (commandEffect (.byte x) s).err = s.err ∧
    (∀ v rest, d = v :: rest →
      Happened s (commandEffect (.readAck x) s)
        [.accept (4#3 ++ x), .write .CR (cwXferAck s.cfg.raw), .read .CR (mInt s.cfg.raw), .read .DR v, .done (some v)] ∧
      (commandEffect (.readAck x) s).err = s.err ∧ (commandEffect (.readAck x) s).res = v ∧
      Happened s (commandEffect (.readNack x) s)
        [.accept (5#3 ++ x), .write .CR (cwXfer s.cfg.raw), .read .CR (mInt s.cfg.raw), .read .DR v, .done (some v)] ∧
      (commandEffect (.readNack x) s).err = s.err ∧ (commandEffect (.readNack x) s).res = v)

/-! ### What the block never reads -/

/-- 10_state.md R15c, R18, R19, 40_sequencer_primitives.md R60: no step depends on ERR, OP, RES or the history. Two states
that agree on the rest are refused together or step to two states that agree on the rest, with the same new events. -/
def Obligations.ErrOpResAndHistoryNeverSteerAStep : Prop :=
  ∀ s t : State, SameControl s t →
    (∀ r, step s = .refused r → step t = .refused r) ∧
    (∀ s', step s = .next s' → ∃ t' ev, step t = .next t' ∧ SameControl s' t' ∧ Happened s s' ev ∧ Happened t t' ev)

/-- 10_state.md R23 ("can be replaced by any value in a model without changing any observable behaviour"): from an IDLE
state, whatever CNT, OP and ARG hold, a run of any length ends in states that differ at most in CNT, OP and ARG. -/
def Obligations.HiddenRegistersAreNeverObserved : Prop :=
  ∀ (n : Nat) (s t : State) (c : Count) (o : BitVec 3) (a : Byte), s.ph = .idle →
    Host.Core.run Sys2Proof.core n s = .next t →
    ∃ c' o' a', Host.Core.run Sys2Proof.core n { s with cnt := c, op := o, arg := a } =
      .next { t with cnt := c', op := o', arg := a' }

/-- 40_sequencer_primitives.md R60: TXN. From a history in which TXN is IDLE, TXN is STARTED after a START exactly when that
START set neither E_START nor E_ADDR, and IDLE again, so that a retry may follow, when it set one; and it is IDLE after a
STOP, whatever it was. From STARTED a START that sets neither leaves STARTED (R60 and N13 leave a repeated start open: the
model's choice, log 13). -/
def Obligations.TransactionStateFollowsTheHistory : Prop :=
  ∀ (s : State) (x : Byte),
    (∃ ev, Happened s (commandEffect (.start x) s) ev ∧
      ((protocolOf s.events).txn = .idle → (protocolOf (commandEffect (.start x) s).events).txn =
        if .timeout .start ∈ ev ∨ .timeout .address ∈ ev then .idle else .started) ∧
      ((protocolOf s.events).txn = .started → .timeout .start ∉ ev → .timeout .address ∉ ev →
        (protocolOf (commandEffect (.start x) s).events).txn = .started)) ∧
    (protocolOf (commandEffect (.stop x) s).events).txn = .idle
end

