-- ==== Sys2Proof/Laws/Config.lean ====
section
/-! SUPPORT. What a valid configuration guarantees (00_scope.md R8, R10). -/

namespace Sys2Proof

/-- The conditions of validity, as propositions. -/
theorem ValidConfig.conditions (c : ValidConfig) :
    1 ≤ c.raw.cpuHz ∧ 1 ≤ c.raw.sclHz ∧
    (c.raw.prescale = 1 ∨ c.raw.prescale = 4 ∨ c.raw.prescale = 16 ∨ c.raw.prescale = 64) ∧
    16 ≤ Machine.ratio c.raw ∧ Machine.brDiv c.raw ≤ 255 := by
  have h := c.ok
  simp only [Config.valid, Config.meetsR8, Bool.and_eq_true, Bool.or_eq_true, decide_eq_true_eq, beq_iff_eq] at h
  obtain ⟨⟨⟨⟨⟨⟨h1, h2⟩, h3⟩, h4⟩, h5⟩, -⟩, -⟩ := h
  exact ⟨h1, h2, by tauto, h4, h5⟩

/-- The bit positions of a valid configuration are pairwise distinct. -/
theorem ValidConfig.positions_nodup (c : ValidConfig) :
    [c.raw.intB, c.raw.eaB, c.raw.staB, c.raw.stoB, c.raw.enB].Nodup := by
  have h := c.ok
  simp only [Config.valid, Config.positionsDistinct, Bool.and_eq_true, decide_eq_true_eq] at h
  exact h.1.2

/-- RATIO is between 16 and the largest valid one (00_scope.md R8). -/
theorem ValidConfig.ratio_le (c : ValidConfig) : Machine.ratio c.raw ≤ 32783 := by
  obtain ⟨-, -, h3, -, h5⟩ := c.conditions
  unfold Machine.brDiv at h5
  rcases h3 with h | h | h | h <;> rw [h] at h5 <;> simp at h5 <;> omega

end Sys2Proof
end

