-- ==== Sys2Proof/Laws/State.lean ====
section
/-! SUPPORT. One lemma per field per update operation (Machine/Ops.lean), so that no proof unfolds a record update. -/

namespace Sys2Proof.Machine

/-! ### emit -/

@[simp] theorem emit_err (e : Event) (s : State) : (emit e s).err = s.err := rfl
@[simp] theorem emit_cnt (e : Event) (s : State) : (emit e s).cnt = s.cnt := rfl
@[simp] theorem emit_ph (e : Event) (s : State) : (emit e s).ph = s.ph := rfl
@[simp] theorem emit_op (e : Event) (s : State) : (emit e s).op = s.op := rfl
@[simp] theorem emit_arg (e : Event) (s : State) : (emit e s).arg = s.arg := rfl
@[simp] theorem emit_res (e : Event) (s : State) : (emit e s).res = s.res := rfl
@[simp] theorem emit_cfg (e : Event) (s : State) : (emit e s).cfg = s.cfg := rfl
@[simp] theorem emit_host (e : Event) (s : State) : (emit e s).host = s.host := rfl
@[simp] theorem emit_env (e : Event) (s : State) : (emit e s).env = s.env := rfl
@[simp] theorem emit_draws (e : Event) (s : State) : (emit e s).draws = s.draws := rfl
@[simp] theorem emit_events (e : Event) (s : State) : (emit e s).events = s.events ++ [e] := rfl
@[simp] theorem emit_mark (e : Event) (s : State) : (emit e s).mark = s.mark := rfl

/-! ### regWrite -/

@[simp] theorem regWrite_err (r : PReg) (v : Byte) (s : State) : (regWrite r v s).err = s.err := rfl
@[simp] theorem regWrite_cnt (r : PReg) (v : Byte) (s : State) : (regWrite r v s).cnt = s.cnt := rfl
@[simp] theorem regWrite_ph (r : PReg) (v : Byte) (s : State) : (regWrite r v s).ph = s.ph := rfl
@[simp] theorem regWrite_op (r : PReg) (v : Byte) (s : State) : (regWrite r v s).op = s.op := rfl
@[simp] theorem regWrite_arg (r : PReg) (v : Byte) (s : State) : (regWrite r v s).arg = s.arg := rfl
@[simp] theorem regWrite_res (r : PReg) (v : Byte) (s : State) : (regWrite r v s).res = s.res := rfl
@[simp] theorem regWrite_cfg (r : PReg) (v : Byte) (s : State) : (regWrite r v s).cfg = s.cfg := rfl
@[simp] theorem regWrite_host (r : PReg) (v : Byte) (s : State) : (regWrite r v s).host = s.host := rfl
@[simp] theorem regWrite_env (r : PReg) (v : Byte) (s : State) : (regWrite r v s).env = s.env := rfl
@[simp] theorem regWrite_draws (r : PReg) (v : Byte) (s : State) : (regWrite r v s).draws = s.draws := rfl
@[simp] theorem regWrite_events (r : PReg) (v : Byte) (s : State) : (regWrite r v s).events = s.events ++ [.write r v] := rfl
@[simp] theorem regWrite_mark (r : PReg) (v : Byte) (s : State) : (regWrite r v s).mark = s.mark := rfl

/-! ### regRead_snd -/

@[simp] theorem regRead_snd_err (r : PReg) (s : State) : (regRead r s).2.err = s.err := rfl
@[simp] theorem regRead_snd_cnt (r : PReg) (s : State) : (regRead r s).2.cnt = s.cnt := rfl
@[simp] theorem regRead_snd_ph (r : PReg) (s : State) : (regRead r s).2.ph = s.ph := rfl
@[simp] theorem regRead_snd_op (r : PReg) (s : State) : (regRead r s).2.op = s.op := rfl
@[simp] theorem regRead_snd_arg (r : PReg) (s : State) : (regRead r s).2.arg = s.arg := rfl
@[simp] theorem regRead_snd_res (r : PReg) (s : State) : (regRead r s).2.res = s.res := rfl
@[simp] theorem regRead_snd_cfg (r : PReg) (s : State) : (regRead r s).2.cfg = s.cfg := rfl
@[simp] theorem regRead_snd_host (r : PReg) (s : State) : (regRead r s).2.host = s.host := rfl
@[simp] theorem regRead_snd_env (r : PReg) (s : State) : (regRead r s).2.env = (envAnswer s.cfg.raw s.draws s.env r).2.1 := rfl
@[simp] theorem regRead_snd_draws (r : PReg) (s : State) : (regRead r s).2.draws = (envAnswer s.cfg.raw s.draws s.env r).2.2 := rfl
@[simp] theorem regRead_snd_events (r : PReg) (s : State) : (regRead r s).2.events = s.events ++ [.read r (regRead r s).1] := rfl
@[simp] theorem regRead_snd_mark (r : PReg) (s : State) : (regRead r s).2.mark = s.mark := rfl

/-! ### accept -/

@[simp] theorem accept_err (cw : CmdWord) (s : State) : (accept cw s).err = s.err := rfl
@[simp] theorem accept_cnt (cw : CmdWord) (s : State) : (accept cw s).cnt = s.cnt := rfl
@[simp] theorem accept_ph (cw : CmdWord) (s : State) : (accept cw s).ph = firstPhase (opField cw) := rfl
@[simp] theorem accept_op (cw : CmdWord) (s : State) : (accept cw s).op = opField cw := rfl
@[simp] theorem accept_arg (cw : CmdWord) (s : State) : (accept cw s).arg = argField cw := rfl
@[simp] theorem accept_res (cw : CmdWord) (s : State) : (accept cw s).res = s.res := rfl
@[simp] theorem accept_cfg (cw : CmdWord) (s : State) : (accept cw s).cfg = s.cfg := rfl
@[simp] theorem accept_host (cw : CmdWord) (s : State) : (accept cw s).host = s.host := rfl
@[simp] theorem accept_env (cw : CmdWord) (s : State) : (accept cw s).env = s.env := rfl
@[simp] theorem accept_draws (cw : CmdWord) (s : State) : (accept cw s).draws = s.draws := rfl
@[simp] theorem accept_events (cw : CmdWord) (s : State) : (accept cw s).events = s.events ++ [.accept cw] := rfl
@[simp] theorem accept_mark (cw : CmdWord) (s : State) : (accept cw s).mark = s.mark := rfl

/-! ### goto -/

@[simp] theorem goto_err (p : Phase) (s : State) : (goto p s).err = s.err := rfl
@[simp] theorem goto_cnt (p : Phase) (s : State) : (goto p s).cnt = s.cnt := rfl
@[simp] theorem goto_ph (p : Phase) (s : State) : (goto p s).ph = p := rfl
@[simp] theorem goto_op (p : Phase) (s : State) : (goto p s).op = s.op := rfl
@[simp] theorem goto_arg (p : Phase) (s : State) : (goto p s).arg = s.arg := rfl
@[simp] theorem goto_res (p : Phase) (s : State) : (goto p s).res = s.res := rfl
@[simp] theorem goto_cfg (p : Phase) (s : State) : (goto p s).cfg = s.cfg := rfl
@[simp] theorem goto_host (p : Phase) (s : State) : (goto p s).host = s.host := rfl
@[simp] theorem goto_env (p : Phase) (s : State) : (goto p s).env = s.env := rfl
@[simp] theorem goto_draws (p : Phase) (s : State) : (goto p s).draws = s.draws := rfl
@[simp] theorem goto_events (p : Phase) (s : State) : (goto p s).events = s.events := rfl
@[simp] theorem goto_mark (p : Phase) (s : State) : (goto p s).mark = s.mark := rfl

/-! ### complete -/

@[simp] theorem complete_err (s : State) : (complete s).err = s.err := rfl
@[simp] theorem complete_cnt (s : State) : (complete s).cnt = s.cnt := rfl
@[simp] theorem complete_ph (s : State) : (complete s).ph = .idle := rfl
@[simp] theorem complete_op (s : State) : (complete s).op = s.op := rfl
@[simp] theorem complete_arg (s : State) : (complete s).arg = s.arg := rfl
@[simp] theorem complete_res (s : State) : (complete s).res = s.res := rfl
@[simp] theorem complete_cfg (s : State) : (complete s).cfg = s.cfg := rfl
@[simp] theorem complete_host (s : State) : (complete s).host = s.host := rfl
@[simp] theorem complete_env (s : State) : (complete s).env = s.env := rfl
@[simp] theorem complete_draws (s : State) : (complete s).draws = s.draws := rfl
@[simp] theorem complete_events (s : State) : (complete s).events = s.events ++ [.done none] := rfl
@[simp] theorem complete_mark (s : State) : (complete s).mark = s.mark := rfl

/-! ### completeRead -/

@[simp] theorem completeRead_err (v : Byte) (s : State) : (completeRead v s).err = s.err := rfl
@[simp] theorem completeRead_cnt (v : Byte) (s : State) : (completeRead v s).cnt = s.cnt := rfl
@[simp] theorem completeRead_ph (v : Byte) (s : State) : (completeRead v s).ph = .idle := rfl
@[simp] theorem completeRead_op (v : Byte) (s : State) : (completeRead v s).op = s.op := rfl
@[simp] theorem completeRead_arg (v : Byte) (s : State) : (completeRead v s).arg = s.arg := rfl
@[simp] theorem completeRead_res (v : Byte) (s : State) : (completeRead v s).res = v := rfl
@[simp] theorem completeRead_cfg (v : Byte) (s : State) : (completeRead v s).cfg = s.cfg := rfl
@[simp] theorem completeRead_host (v : Byte) (s : State) : (completeRead v s).host = s.host := rfl
@[simp] theorem completeRead_env (v : Byte) (s : State) : (completeRead v s).env = s.env := rfl
@[simp] theorem completeRead_draws (v : Byte) (s : State) : (completeRead v s).draws = s.draws := rfl
@[simp] theorem completeRead_events (v : Byte) (s : State) : (completeRead v s).events = s.events ++ [.done (some v)] := rfl
@[simp] theorem completeRead_mark (v : Byte) (s : State) : (completeRead v s).mark = s.mark := rfl

/-! ### trigger -/

@[simp] theorem trigger_err (m : Byte) (s : State) : (trigger m s).err = s.err := rfl
@[simp] theorem trigger_cnt (m : Byte) (s : State) : (trigger m s).cnt = toBudgetCount s.cfg.raw := rfl
@[simp] theorem trigger_ph (m : Byte) (s : State) : (trigger m s).ph = s.ph := rfl
@[simp] theorem trigger_op (m : Byte) (s : State) : (trigger m s).op = s.op := rfl
@[simp] theorem trigger_arg (m : Byte) (s : State) : (trigger m s).arg = s.arg := rfl
@[simp] theorem trigger_res (m : Byte) (s : State) : (trigger m s).res = s.res := rfl
@[simp] theorem trigger_cfg (m : Byte) (s : State) : (trigger m s).cfg = s.cfg := rfl
@[simp] theorem trigger_host (m : Byte) (s : State) : (trigger m s).host = s.host := rfl
@[simp] theorem trigger_env (m : Byte) (s : State) : (trigger m s).env = envTriggered s.env := rfl
@[simp] theorem trigger_draws (m : Byte) (s : State) : (trigger m s).draws = s.draws := rfl
@[simp] theorem trigger_events (m : Byte) (s : State) : (trigger m s).events = s.events ++ [.write .CR m] := rfl
@[simp] theorem trigger_mark (m : Byte) (s : State) : (trigger m s).mark = s.mark := rfl

/-! ### readData -/

@[simp] theorem readData_err (s : State) : (readData s).err = s.err := rfl
@[simp] theorem readData_cnt (s : State) : (readData s).cnt = s.cnt := rfl
@[simp] theorem readData_ph (s : State) : (readData s).ph = .idle := rfl
@[simp] theorem readData_op (s : State) : (readData s).op = s.op := rfl
@[simp] theorem readData_arg (s : State) : (readData s).arg = s.arg := rfl
@[simp] theorem readData_res (s : State) : (readData s).res = (regRead .DR s).1 := rfl
@[simp] theorem readData_cfg (s : State) : (readData s).cfg = s.cfg := rfl
@[simp] theorem readData_host (s : State) : (readData s).host = s.host := rfl
@[simp] theorem readData_env (s : State) : (readData s).env = (regRead .DR s).2.env := rfl
@[simp] theorem readData_draws (s : State) : (readData s).draws = (regRead .DR s).2.draws := rfl
@[simp] theorem readData_events (s : State) : (readData s).events = (regRead .DR s).2.events ++ [.done (some (regRead .DR s).1)] := rfl
@[simp] theorem readData_mark (s : State) : (readData s).mark = s.mark := rfl

/-! ### beginStep -/

@[simp] theorem beginStep_err (s : State) : (beginStep s).err = s.err := rfl
@[simp] theorem beginStep_cnt (s : State) : (beginStep s).cnt = s.cnt := rfl
@[simp] theorem beginStep_ph (s : State) : (beginStep s).ph = s.ph := rfl
@[simp] theorem beginStep_op (s : State) : (beginStep s).op = s.op := rfl
@[simp] theorem beginStep_arg (s : State) : (beginStep s).arg = s.arg := rfl
@[simp] theorem beginStep_res (s : State) : (beginStep s).res = s.res := rfl
@[simp] theorem beginStep_cfg (s : State) : (beginStep s).cfg = s.cfg := rfl
@[simp] theorem beginStep_host (s : State) : (beginStep s).host = s.host.tail := rfl
@[simp] theorem beginStep_env (s : State) : (beginStep s).env = s.env := rfl
@[simp] theorem beginStep_draws (s : State) : (beginStep s).draws = s.draws := rfl
@[simp] theorem beginStep_events (s : State) : (beginStep s).events = s.events := rfl
@[simp] theorem beginStep_mark (s : State) : (beginStep s).mark = s.events.length := rfl

/-! ### applyReset -/

@[simp] theorem applyReset_err (s : State) : (applyReset s).err = 0x00#8 := rfl
@[simp] theorem applyReset_cnt (s : State) : (applyReset s).cnt = 0#17 := rfl
@[simp] theorem applyReset_ph (s : State) : (applyReset s).ph = .idle := rfl
@[simp] theorem applyReset_op (s : State) : (applyReset s).op = 0#3 := rfl
@[simp] theorem applyReset_arg (s : State) : (applyReset s).arg = 0x00#8 := rfl
@[simp] theorem applyReset_res (s : State) : (applyReset s).res = 0x00#8 := rfl
@[simp] theorem applyReset_cfg (s : State) : (applyReset s).cfg = s.cfg := rfl
@[simp] theorem applyReset_host (s : State) : (applyReset s).host = s.host := rfl
@[simp] theorem applyReset_env (s : State) : (applyReset s).env = s.env := rfl
@[simp] theorem applyReset_draws (s : State) : (applyReset s).draws = s.draws := rfl
@[simp] theorem applyReset_events (s : State) : (applyReset s).events = s.events ++ [.reset] := rfl
@[simp] theorem applyReset_mark (s : State) : (applyReset s).mark = s.mark := rfl

/-! ### raiseTimeout -/

@[simp] theorem raiseTimeout_err (n : Cause) (s : State) : (raiseTimeout n s).err = errSet s.err n := by cases n <;> rfl
@[simp] theorem raiseTimeout_cnt (n : Cause) (s : State) : (raiseTimeout n s).cnt = s.cnt := by cases n <;> rfl
@[simp] theorem raiseTimeout_ph (n : Cause) (s : State) : (raiseTimeout n s).ph = .idle := by cases n <;> rfl
@[simp] theorem raiseTimeout_op (n : Cause) (s : State) : (raiseTimeout n s).op = s.op := by cases n <;> rfl
@[simp] theorem raiseTimeout_arg (n : Cause) (s : State) : (raiseTimeout n s).arg = s.arg := by cases n <;> rfl
@[simp] theorem raiseTimeout_res (n : Cause) (s : State) : (raiseTimeout n s).res = if causeIsRead n then 0x00#8 else s.res := by cases n <;> rfl
@[simp] theorem raiseTimeout_cfg (n : Cause) (s : State) : (raiseTimeout n s).cfg = s.cfg := by cases n <;> rfl
@[simp] theorem raiseTimeout_host (n : Cause) (s : State) : (raiseTimeout n s).host = s.host := by cases n <;> rfl
@[simp] theorem raiseTimeout_env (n : Cause) (s : State) : (raiseTimeout n s).env = s.env := by cases n <;> rfl
@[simp] theorem raiseTimeout_draws (n : Cause) (s : State) : (raiseTimeout n s).draws = s.draws := by cases n <;> rfl
@[simp] theorem raiseTimeout_events (n : Cause) (s : State) : (raiseTimeout n s).events = s.events ++ [.timeout n, .done (if causeIsRead n then some 0x00#8 else none)] := by cases n <;> simp [raiseTimeout, causeIsRead]
@[simp] theorem raiseTimeout_mark (n : Cause) (s : State) : (raiseTimeout n s).mark = s.mark := by cases n <;> rfl

/-! ### hostErrWrite -/

@[simp] theorem hostErrWrite_err (h : HostInput) (s : State) : (hostErrWrite h s).err = if h.errWr then errWritten h.errWdata else s.err := by
  unfold hostErrWrite; split <;> simp
@[simp] theorem hostErrWrite_cnt (h : HostInput) (s : State) : (hostErrWrite h s).cnt = s.cnt := by
  unfold hostErrWrite; split <;> simp
@[simp] theorem hostErrWrite_ph (h : HostInput) (s : State) : (hostErrWrite h s).ph = s.ph := by
  unfold hostErrWrite; split <;> simp
@[simp] theorem hostErrWrite_op (h : HostInput) (s : State) : (hostErrWrite h s).op = s.op := by
  unfold hostErrWrite; split <;> simp
@[simp] theorem hostErrWrite_arg (h : HostInput) (s : State) : (hostErrWrite h s).arg = s.arg := by
  unfold hostErrWrite; split <;> simp
@[simp] theorem hostErrWrite_res (h : HostInput) (s : State) : (hostErrWrite h s).res = s.res := by
  unfold hostErrWrite; split <;> simp
@[simp] theorem hostErrWrite_cfg (h : HostInput) (s : State) : (hostErrWrite h s).cfg = s.cfg := by
  unfold hostErrWrite; split <;> simp
@[simp] theorem hostErrWrite_host (h : HostInput) (s : State) : (hostErrWrite h s).host = s.host := by
  unfold hostErrWrite; split <;> simp
@[simp] theorem hostErrWrite_env (h : HostInput) (s : State) : (hostErrWrite h s).env = s.env := by
  unfold hostErrWrite; split <;> simp
@[simp] theorem hostErrWrite_draws (h : HostInput) (s : State) : (hostErrWrite h s).draws = s.draws := by
  unfold hostErrWrite; split <;> simp
@[simp] theorem hostErrWrite_events (h : HostInput) (s : State) : (hostErrWrite h s).events = s.events ++ (if h.errWr then [.errWrite h.errWdata] else []) := by
  unfold hostErrWrite; split <;> simp
@[simp] theorem hostErrWrite_mark (h : HostInput) (s : State) : (hostErrWrite h s).mark = s.mark := by
  unfold hostErrWrite; split <;> simp

end Sys2Proof.Machine
end

