-- ==== Sys2Proof/Laws/Ops.lean ====
section
/-! SUPPORT. For each shared operation, once, what it can do; the provers cite these instead of unfolding it. -/

namespace Sys2Proof.Machine

/-! ### The operand fields of a word -/

theorem getLsbD_mkWord (op : BitVec 3) (x : Byte) (i : Nat) :
    (mkWord op x).getLsbD i = if i < 8 then x.getLsbD i else op.getLsbD (i - 8) :=
  BitVec.getLsbD_append (x := op) (y := x)

@[simp] theorem opField_mkWord (op : BitVec 3) (x : Byte) : opField (mkWord op x) = op := by
  apply BitVec.eq_of_getLsbD_eq
  intro i hi
  simp [opField, getLsbD_mkWord, hi]

@[simp] theorem argField_mkWord (op : BitVec 3) (x : Byte) : argField (mkWord op x) = x := by
  apply BitVec.eq_of_getLsbD_eq
  intro i hi
  simp [argField, getLsbD_mkWord, hi]

@[simp] theorem opField_encode (i : Instr) : opField (encode i) = opcode i := opField_mkWord _ _

@[simp] theorem argField_encode (i : Instr) : argField (encode i) = operand i := argField_mkWord _ _

theorem mkWord_fields (cw : CmdWord) : mkWord (opField cw) (argField cw) = cw := by
  apply BitVec.eq_of_getLsbD_eq
  intro i hi
  by_cases h : i < 8
  · simp [opField, argField, getLsbD_mkWord, h]
  · have h3 : i - 8 < 3 := by omega
    have h4 : 8 + (i - 8) = i := by omega
    simp [opField, argField, getLsbD_mkWord, h, h3, h4]

/-! ### Register accesses -/

theorem regRead_eq (r : PReg) (s : State) :
    regRead r s = ((regRead r s).1,
      { s with env := (regRead r s).2.env, draws := (regRead r s).2.draws,
               events := s.events ++ [.read r (regRead r s).1] }) := rfl

theorem regRead_free (r : PReg) (s : State) (v : Byte) (vs : List Byte) (h : s.env = .free (v :: vs)) :
    regRead r s = (v, { s with env := .free vs, events := s.events ++ [.read r v] }) := by
  simp [regRead, emit, envAnswer, h]

theorem regRead_dead (s : State) (h : s.env = .dead) :
    regRead .CR s = (0#8, { s with events := s.events ++ [.read .CR 0#8] }) := by
  cases s; simp_all [regRead, emit, envAnswer]

/-- The bit INT_B of M_INT is 1, and no bit of 0 is. -/
@[simp] theorem flagSet_mInt (c : Config) : flagSet c (mInt c) = true := by
  simp [flagSet, mInt]

@[simp] theorem flagSet_zero (c : Config) : flagSet c 0#8 = false := by simp [flagSet]

/-! ### The poll -/

theorem pollStep_timeout (n : Cause) (ok : State → State) (s : State) (h : s.cnt = 0#17) :
    pollStep n ok s = raiseTimeout n s := by simp [pollStep, h]

theorem pollStep_ok (n : Cause) (ok : State → State) (s : State) (h : s.cnt ≠ 0#17)
    (hf : flagSet s.cfg.raw (regRead .CR s).1 = true) : pollStep n ok s = ok (regRead .CR s).2 := by
  simp [pollStep, h, hf]

theorem pollStep_again (n : Cause) (ok : State → State) (s : State) (h : s.cnt ≠ 0#17)
    (hf : flagSet s.cfg.raw (regRead .CR s).1 = false) :
    pollStep n ok s = { (regRead .CR s).2 with cnt := s.cnt - 1#17 } := by simp [pollStep, h, hf]

/-- All a poll step can do. -/
theorem pollStep_cases (n : Cause) (ok : State → State) (s : State) :
    (s.cnt = 0#17 ∧ pollStep n ok s = raiseTimeout n s) ∨
    (s.cnt ≠ 0#17 ∧ flagSet s.cfg.raw (regRead .CR s).1 = true ∧ pollStep n ok s = ok (regRead .CR s).2) ∨
    (s.cnt ≠ 0#17 ∧ flagSet s.cfg.raw (regRead .CR s).1 = false ∧
      pollStep n ok s = { (regRead .CR s).2 with cnt := s.cnt - 1#17 }) := by
  by_cases h : s.cnt = 0#17
  · exact .inl ⟨h, pollStep_timeout n ok s h⟩
  · cases hf : flagSet s.cfg.raw (regRead .CR s).1
    · exact .inr (.inr ⟨h, rfl, pollStep_again n ok s h hf⟩)
    · exact .inr (.inl ⟨h, rfl, pollStep_ok n ok s h hf⟩)

/-! ### One step of an instruction -/

/-- The state an instruction's step leads to. -/
def stepOf (i : Instr) (s : State) : State :=
  match i with
  | .init _ => initSteps (encode i) s
  | .start _ => startSteps (encode i) s
  | .stop _ => stopSteps (encode i) s
  | .byte _ => byteSteps (encode i) s
  | .readAck _ => readAckSteps (encode i) s
  | .readNack _ => readNackSteps (encode i) s
  | .txStart _ => initSteps (encode i) s
  | .txAddress _ => startSteps (encode i) s
  | .txByte _ => byteSteps (encode i) s
  | .txStop _ => stopSteps (encode i) s

/-- No instruction ends in a fault or a refusal. -/
theorem exec_eq_next (i : Instr) (s : State) : exec i s = .next (stepOf i s) := by cases i <;> rfl

theorem stepOf_delegate (i : Instr) (s : State) : stepOf (delegate i) s = stepOf i s := by cases i <;> rfl

/-- Accept: every instruction executed in IDLE. -/
theorem stepOf_idle (i : Instr) (s : State) (h : s.ph = .idle) : stepOf i s = accept (encode i) s := by
  cases i <;> simp [stepOf, initSteps, startSteps, stopSteps, byteSteps, readAckSteps, readNackSteps, h]

/-! ### One step of the machine -/

/-- All a step can do. -/
theorem step_cases (s : State) :
    ((hostNow s).rst = true ∧ step s = .next (applyReset (beginStep s))) ∨
    ((hostNow s).rst = false ∧ s.ph = .idle ∧ (hostNow s).cmdValid = false ∧
      step s = .next (hostErrWrite (hostNow s) (beginStep s))) ∨
    ((hostNow s).rst = false ∧ s.ph = .idle ∧ (hostNow s).cmdValid = true ∧
      ∃ i, decode (hostNow s).cmdWord = .instr i ∧
        step s = .next (stepOf i (hostErrWrite (hostNow s) (beginStep s)))) ∨
    ((hostNow s).rst = false ∧ s.ph = .idle ∧ (hostNow s).cmdValid = true ∧
      (∀ i, decode (hostNow s).cmdWord ≠ .instr i) ∧
      step s = .refused (.reservedCommand (hostNow s).cmdWord)) ∨
    ((hostNow s).rst = false ∧ s.ph ≠ .idle ∧
      ∃ i, inFlight s.ph s.arg = some i ∧ step s = .next (stepOf i (beginStep s))) := by
  cases hr : (hostNow s).rst
  · by_cases hp : s.ph = .idle
    · cases hc : (hostNow s).cmdValid
      · exact .inr (.inl ⟨rfl, hp, rfl, by simp [step, cycle, hr, hp, inFlight, idleStep, hc]⟩)
      · cases hd : decode (hostNow s).cmdWord with
        | instr i =>
          exact .inr (.inr (.inl ⟨rfl, hp, rfl, i, rfl, by
            simp [step, cycle, hr, hp, inFlight, idleStep, hc, hd, exec_eq_next]⟩))
        | reserved o =>
          exact .inr (.inr (.inr (.inl ⟨rfl, hp, rfl, by simp, by
            simp [step, cycle, hr, hp, inFlight, idleStep, hc, hd]⟩)))
        | tooWide =>
          exact .inr (.inr (.inr (.inl ⟨rfl, hp, rfl, by simp, by
            simp [step, cycle, hr, hp, inFlight, idleStep, hc, hd]⟩)))
    · have hi : ∃ i, inFlight s.ph s.arg = some i := by
        revert hp; cases s.ph <;> simp [inFlight]
      obtain ⟨i, hi⟩ := hi
      exact .inr (.inr (.inr (.inr ⟨rfl, hp, i, hi, by simp [step, cycle, hr, hi, exec_eq_next]⟩)))
  · exact .inl ⟨rfl, by simp [step, cycle, hr]⟩

end Sys2Proof.Machine
end

