-- ==== Sys2Proof/Laws/History.lean ====
section
/-! SUPPORT. What the ports show of the last step's events, and how TXN is read off a longer history
(20_memory.md R25, R27; 40_sequencer_primitives.md R60). -/

namespace Sys2Proof.Machine

/-! ### Ports -/

theorem regSelCode_injective {a b : PReg} (h : regSelCode a = regSelCode b) : a = b := by
  revert h; cases a <;> cases b <;> decide

@[simp] theorem regSelCode_inj (a b : PReg) : regSelCode a = regSelCode b ↔ a = b := ⟨regSelCode_injective, fun h => h ▸ rfl⟩

/-- The events of the last step, in a state that has only added `ev` since the mark. -/
theorem lastEvents_of_mark {s t : State} {ev : List Event} (hm : t.mark = s.events.length)
    (he : t.events = s.events ++ ev) : lastEvents t = ev := by simp [lastEvents, hm, he]

/-- The access of a list of events, if it holds at most one: none, one write or one read, among events that are none. -/
theorem one_access_cases (ev : List Event) (h : (traceOf ev).length ≤ 1) :
    (∀ e ∈ ev, isAccess e = false) ∨
    ∃ a e b, ev = a ++ e :: b ∧ isAccess e = true ∧ (∀ x ∈ a, isAccess x = false) ∧ (∀ x ∈ b, isAccess x = false) := by
  induction ev with
  | nil => simp
  | cons e es ih =>
    cases he : isAccess e with
    | true =>
      have hes : es.filter isAccess = [] := by simpa [traceOf, List.filter_cons, he] using h
      exact .inr ⟨[], e, es, rfl, he, by simp, fun x hx => by simpa using List.filter_eq_nil_iff.mp hes x hx⟩
    | false =>
      rcases ih (by simpa [traceOf, List.filter_cons, he] using h) with h1 | ⟨a, x, b, rfl, hx, ha, hb⟩
      · exact .inl (by simpa [he] using h1)
      · exact .inr ⟨e :: a, x, b, rfl, hx, by simpa [he] using ha, hb⟩

/-! ### The logical transaction state -/

theorem protocolOf_append (es fs : List Event) : protocolOf (es ++ fs) = fs.foldl protocolNext (protocolOf es) := by
  simp [protocolOf, List.foldl_append]

@[simp] theorem protocolNext_accept (p : Protocol) (cw : CmdWord) :
    protocolNext p (.accept cw) = { p with current := some (opField cw), timedOut := false } := rfl
@[simp] theorem protocolNext_timeout (p : Protocol) (n : Cause) :
    protocolNext p (.timeout n) = { p with timedOut := true } := rfl
@[simp] theorem protocolNext_write (p : Protocol) (r : PReg) (v : Byte) : protocolNext p (.write r v) = p := rfl
@[simp] theorem protocolNext_read (p : Protocol) (r : PReg) (v : Byte) : protocolNext p (.read r v) = p := rfl
@[simp] theorem protocolNext_reset (p : Protocol) : protocolNext p .reset = protocolStart := rfl
@[simp] theorem protocolNext_errWrite (p : Protocol) (v : Byte) : protocolNext p (.errWrite v) = p := rfl

/-- The reads of a poll say nothing of TXN. -/
@[simp] theorem foldl_protocolNext_reads (r : PReg) (rs : List Byte) (p : Protocol) :
    (rs.map (Event.read r)).foldl protocolNext p = p := by
  induction rs with
  | nil => rfl
  | cons v rs ih => simpa using ih

end Sys2Proof.Machine
end

