-- ==== Sys2Proof/Laws/PerInstr.lean ====
section
/-! SUPPORT. Family EncodeFields: what the word of an instruction carries (30_encoding.md R44, R45, R47), one lemma per
constructor. -/

namespace Sys2Proof.Laws.EncodeFields

open Sys2Proof Sys2Proof.Machine

/-- The word carries the opcode and the operand byte, and the block accepts it. -/
def Statement (i : Instr) : Prop :=
  opField (encode i) = opcode i ∧ argField (encode i) = operand i ∧ (encode i).legal = true

theorem of_opcode (i : Instr) (h : (opcode i).toNat ≤ 5) : Statement i :=
  ⟨opField_encode i, argField_encode i, by simp [CmdWord.legal, h]⟩

theorem init (x : Byte) : Statement (.init x) := of_opcode _ (by simp [opcode])
theorem start (x : Byte) : Statement (.start x) := of_opcode _ (by simp [opcode])
theorem stop (x : Byte) : Statement (.stop x) := of_opcode _ (by simp [opcode])
theorem byte (x : Byte) : Statement (.byte x) := of_opcode _ (by simp [opcode])
theorem readAck (x : Byte) : Statement (.readAck x) := of_opcode _ (by simp [opcode])
theorem readNack (x : Byte) : Statement (.readNack x) := of_opcode _ (by simp [opcode])
theorem txStart (x : Byte) : Statement (.txStart x) := of_opcode _ (by simp [opcode])
theorem txAddress (x : Byte) : Statement (.txAddress x) := of_opcode _ (by simp [opcode])
theorem txByte (x : Byte) : Statement (.txByte x) := of_opcode _ (by simp [opcode])
theorem txStop (x : Byte) : Statement (.txStop x) := of_opcode _ (by simp [opcode])

end Sys2Proof.Laws.EncodeFields
end

