-- ==== Sys2Proof/Laws/Poll.lean ====
section
/-! SUPPORT. The big-step poll (40_sequencer_primitives.md R55), once for every environment, and its agreement with the
small-step poll phase (R56). -/

namespace Sys2Proof.Machine

/-- CNT counted down once, in numbers; the poll only counts down a CNT that is not 0 (40_sequencer_primitives.md R59a). -/
theorem cnt_pred (c : Count) (k : Nat) (h : k + 1 = c.toNat) : k = (c - 1#17).toNat := by
  have h1 : 1#17 ≤ c := by simp [BitVec.le_def]; omega
  rw [BitVec.toNat_sub_of_le h1]
  simp
  omega

/-- What a poll with budget `k` leaves: some CR reads, at least one and at most `k` when it ends with `ok`, exactly `k` and
CNT = 0 when it times out; every field but CNT, the environment and the events stays. -/
theorem pollLoop_spec : ∀ (k : Nat) (s : State), k = s.cnt.toNat → ∃ rs : List Byte,
    (pollLoop k s).2 =
      { s with cnt := (pollLoop k s).2.cnt, env := (pollLoop k s).2.env, draws := (pollLoop k s).2.draws
               events := s.events ++ rs.map (.read .CR) } ∧
    ((pollLoop k s).1 = true → 1 ≤ rs.length ∧ rs.length ≤ k) ∧
    ((pollLoop k s).1 = false → rs.length = k ∧ (pollLoop k s).2.cnt = 0#17) := by
  intro k
  induction k with
  | zero =>
    intro s h
    exact ⟨[], by simp [pollLoop], by simp [pollLoop], fun _ => ⟨rfl, BitVec.eq_of_toNat_eq (by simpa [pollLoop] using h.symm)⟩⟩
  | succ k ih =>
    intro s h
    cases hf : flagSet s.cfg.raw (regRead .CR s).1 with
    | true =>
      have e : pollLoop (k + 1) s = (true, (regRead .CR s).2) := by simp [pollLoop, hf]
      rw [e]
      exact ⟨[(regRead .CR s).1], by simp [regRead, emit], by simp, by simp⟩
    | false =>
      have e : pollLoop (k + 1) s = pollLoop k { (regRead .CR s).2 with cnt := s.cnt - 1#17 } := by
        simp [pollLoop, hf]
      rw [e]
      obtain ⟨rs, h1, h2, h3⟩ := ih { (regRead .CR s).2 with cnt := s.cnt - 1#17 } (cnt_pred _ _ h)
      refine ⟨(regRead .CR s).1 :: rs, ?_, fun hh => ?_, fun hh => ?_⟩
      · rw [h1]; simp
      · have := h2 hh; simp only [List.length_cons]; omega
      · have := h3 hh; exact ⟨by simp only [List.length_cons]; omega, this.2⟩

/-- The poll does not look at PH. -/
theorem pollLoop_goto (p : Phase) : ∀ (k : Nat) (s : State),
    pollLoop k (goto p s) = ((pollLoop k s).1, goto p (pollLoop k s).2) := by
  intro k
  induction k with
  | zero => intro s; rfl
  | succ k ih =>
    intro s
    cases hf : flagSet s.cfg.raw (regRead .CR s).1 with
    | true =>
      have e : ∀ t : State, t.cfg = s.cfg → (regRead .CR t).1 = (regRead .CR s).1 →
          pollLoop (k + 1) t = (true, (regRead .CR t).2) := by
        intro t h1 h2; simp [pollLoop, h1, h2, hf]
      rw [e (goto p s) rfl rfl, e s rfl rfl]
      rfl
    | false =>
      have e : ∀ t : State, t.cfg = s.cfg → (regRead .CR t).1 = (regRead .CR s).1 →
          pollLoop (k + 1) t = pollLoop k { (regRead .CR t).2 with cnt := t.cnt - 1#17 } := by
        intro t h1 h2; simp [pollLoop, h1, h2, hf]
      rw [e (goto p s) rfl rfl, e s rfl rfl]
      exact ih { (regRead .CR s).2 with cnt := s.cnt - 1#17 }

/-- Raising a timeout does not look at PH. -/
theorem raiseTimeout_goto (n : Cause) (p : Phase) (s : State) : raiseTimeout n (goto p s) = raiseTimeout n s := by
  cases n <;> rfl

theorem execSteps_succ (i : Instr) (n : Nat) (s : State) : execSteps i (n + 1) s = execSteps i n (stepOf i s) := by
  simp [execSteps, exec_eq_next]

/-- A poll phase run step by step ends as the loop does: in `k` steps or fewer with the success continuation, or in one step
more than its reads with the timeout. -/
theorem execSteps_pollPhase (i : Instr) (n : Cause) (ok : State → State) (p : Phase)
    (hi : ∀ s : State, s.ph = p → stepOf i s = pollStep n ok s) :
    ∀ (k : Nat) (s : State), k = s.cnt.toNat → s.ph = p →
    ∃ m, ((pollLoop k s).1 = true → 1 ≤ m ∧ m ≤ k ∧ execSteps i m s = .next (ok (pollLoop k s).2)) ∧
      ((pollLoop k s).1 = false → m = k + 1 ∧ execSteps i m s = .next (raiseTimeout n (pollLoop k s).2)) := by
  intro k
  induction k with
  | zero =>
    intro s h hp
    have hc : s.cnt = 0#17 := BitVec.eq_of_toNat_eq (by simpa using h.symm)
    refine ⟨1, by simp [pollLoop], fun _ => ⟨rfl, ?_⟩⟩
    simp [pollLoop, execSteps, exec_eq_next, hi s hp, pollStep_timeout _ _ _ hc]
  | succ k ih =>
    intro s h hp
    have hc : s.cnt ≠ 0#17 := by intro hh; simp [hh] at h
    cases hf : flagSet s.cfg.raw (regRead .CR s).1 with
    | true =>
      have e : pollLoop (k + 1) s = (true, (regRead .CR s).2) := by simp [pollLoop, hf]
      rw [e]
      exact ⟨1, fun _ => ⟨by omega, by omega, by
        simp [execSteps, exec_eq_next, hi s hp, pollStep_ok _ _ _ hc hf]⟩, by simp⟩
    | false =>
      have e : pollLoop (k + 1) s = pollLoop k { (regRead .CR s).2 with cnt := s.cnt - 1#17 } := by
        simp [pollLoop, hf]
      rw [e]
      obtain ⟨m, h1, h2⟩ := ih { (regRead .CR s).2 with cnt := s.cnt - 1#17 } (cnt_pred _ _ h) hp
      refine ⟨m + 1, fun hh => ?_, fun hh => ?_⟩
      · obtain ⟨a, b, c⟩ := h1 hh
        exact ⟨by omega, by omega, by rw [execSteps_succ, hi s hp, pollStep_again n ok s hc hf]; exact c⟩
      · obtain ⟨a, b⟩ := h2 hh
        exact ⟨by omega, by rw [execSteps_succ, hi s hp, pollStep_again n ok s hc hf]; exact b⟩

end Sys2Proof.Machine
end

