-- ==== Sys2Proof/Tests/Slice0.lean ====
section
/-! SUPPORT. The model's own tests: expected results are the spec's own vectors (95_test_vectors.md, named in each comment),
and the witness of every statement that has hypotheses. -/

namespace Sys2Proof.Tests

open Sys2Proof Sys2Proof.Machine Sys2Proof.Claims

/-! ### Helpers -/

/-- The next state, if there is one. -/
def nextOf : Host.Outcome State Fault Refusal → Option State
  | .next t => some t
  | .fault _ => none
  | .refused _ => none

/-- State.reset in phase `p`, with CNT and the peripheral's answers as given. -/
def inPhase (p : Phase) (cnt : Count) (answers : List Byte) : State :=
  { State.reset with ph := p, cnt := cnt, env := .free answers }

/-- State.reset with one step of the host's ports. -/
def withInput (h : HostInput) : State := { State.reset with host := [h] }

/-- A valid configuration that is not CFG_A: 16 MHz, 100 kHz, prescale 4 (95_test_vectors.md 2.1), other bit positions. -/
def cfgOther : ValidConfig where
  raw := { cfgA.raw with sclHz := 100000, prescale := 4, intB := 0, enB := 7 }
  ok := by decide

/-! ### Well-formedness: an ill-formed term for each check -/

theorem test_config_refuses_no_cpu_clock : ({ cfgA.raw with cpuHz := 0 } : Config).valid = false := by decide
theorem test_config_refuses_no_bus_clock : ({ cfgA.raw with sclHz := 0 } : Config).valid = false := by decide
theorem test_config_refuses_prescale_2 : ({ cfgA.raw with prescale := 2 } : Config).valid = false := by decide
/-- 95_test_vectors.md 2.1: RATIO = 15 is invalid, not clamped. -/
theorem test_config_refuses_ratio_15 :
    ({ cfgA.raw with cpuHz := 15000000, sclHz := 1000000 } : Config).valid = false := by decide
/-- 95_test_vectors.md 2.1: BR_DIV = 256. -/
theorem test_config_refuses_divisor_256 :
    ({ cfgA.raw with cpuHz := 8448000, sclHz := 16000 } : Config).valid = false := by decide
theorem test_config_refuses_shared_bit : ({ cfgA.raw with enB := 7 } : Config).valid = false := by decide
theorem test_config_refuses_shared_address : ({ cfgA.raw with addrAR := 0 } : Config).valid = false := by decide
theorem test_word_refuses_opcode_6 : CmdWord.legal 0x600#11 = false := by decide
theorem test_instr_refuses_other_spellings :
    [Instr.txStart 0#8, .txAddress 0#8, .txByte 0#8, .txStop 0#8].all (fun i => !i.wf) = true := by decide

/-! ### Configuration arithmetic (95_test_vectors.md 2.1) -/

theorem test_cfgA : ratio cfgA.raw = 40 ∧ psCode cfgA.raw = 0#2 ∧ brDiv cfgA.raw = 12 ∧ toBudget cfgA.raw = 80 := by decide
theorem test_prescale_16 :
    psCode { cfgA.raw with sclHz := 100000, prescale := 16 } = 2#2 ∧
    brDiv { cfgA.raw with sclHz := 100000, prescale := 16 } = 4 := by decide
theorem test_prescale_64 :
    psCode { cfgA.raw with sclHz := 1000, prescale := 64 } = 3#2 ∧
    brDiv { cfgA.raw with sclHz := 1000, prescale := 64 } = 124 := by decide
theorem test_prescale_4 : psCode cfgOther.raw = 1#2 ∧ brDiv cfgOther.raw = 18 ∧ toBudget cfgOther.raw = 320 := by decide
theorem test_largest_budget :
    ({ cfgA.raw with cpuHz := 32783, sclHz := 1, prescale := 64 } : Config).valid = true ∧
    (toBudgetCount { cfgA.raw with cpuHz := 32783, sclHz := 1, prescale := 64 }).toNat = 65566 := by decide
/-- 20_memory.md R29, the default bytes. -/
theorem test_control_bytes :
    cwEnable cfgA.raw = 0x04#8 ∧ cwStart cfgA.raw = 0xA4#8 ∧ cwXfer cfgA.raw = 0x84#8 ∧
    cwXferAck cfgA.raw = 0xC4#8 ∧ cwStop cfgA.raw = 0x94#8 := by decide

/-! ### Decoding: words written out from 30_encoding.md R47 and 95_test_vectors.md 2.2 -/

theorem test_decode_init : decode 0b00011111111#11 = .instr (.init 0xFF#8) := by decide
theorem test_decode_start : decode 0b00110100001#11 = .instr (.start 0xA1#8) := by decide
theorem test_decode_stop : decode 0b01000000000#11 = .instr (.stop 0x00#8) := by decide
theorem test_decode_byte : decode 0b01111111111#11 = .instr (.byte 0xFF#8) := by decide
theorem test_decode_readAck : decode 0b10010100101#11 = .instr (.readAck 0xA5#8) := by decide
theorem test_decode_readNack : decode 0b10100000000#11 = .instr (.readNack 0x00#8) := by decide
/-- R50: an alias assembles to its delegate's word, which decodes to the delegate. -/
theorem test_decode_txStart : encode (.txStart 0#8) = 0b00000000000#11 ∧ decode 0b00000000000#11 = .instr (.init 0#8) := by decide
theorem test_decode_txAddress :
    encode (.txAddress 0xA0#8) = 0b00110100000#11 ∧ decode 0b00110100000#11 = .instr (.start 0xA0#8) := by decide
theorem test_decode_txByte :
    encode (.txByte 0x05#8) = 0b01100000101#11 ∧ decode 0b01100000101#11 = .instr (.byte 0x05#8) := by decide
theorem test_decode_txStop : encode (.txStop 0#8) = 0b01000000000#11 ∧ decode 0b01000000000#11 = .instr (.stop 0#8) := by decide
theorem test_decode_reserved : decode 0b11000000000#11 = .reserved 6#3 ∧ decode 0b11111111111#11 = .reserved 7#3 := by decide
theorem test_decode_wide : decodeNat 0x800 = .tooWide := by decide
theorem test_decodeTableWord :
    decodeTableWord 16 0x1A0 = some (.start 0xA0#8) ∧ decodeTableWord 11 0x500 = some (.readNack 0#8) ∧
    decodeTableWord 16 0x600 = none := by decide
/-- R47: the rows of the table do not overlap, and none overlaps the reserved row. -/
theorem test_rows_disjoint :
    opcodeRows.Pairwise (fun r q => r.pattern &&& q.mask ≠ q.pattern) ∧
    ∀ r ∈ opcodeRows, r.pattern &&& reservedMask ≠ reservedPattern := by decide

/-! ### Assembler (30_encoding.md R50) -/

/-- `byte(0x05); tx_address(160);` -/
theorem test_assemble :
    assemble ['b', 'y', 't', 'e', '(', '0', 'x', '0', '5', ')', ';', ' ',
      't', 'x', '_', 'a', 'd', 'd', 'r', 'e', 's', 's', '(', '1', '6', '0', ')', ';'] = some [0x305#11, 0x1A0#11] := by decide
/-- 95_test_vectors.md P2, the end of its text: `a = readAck(); b = readNAck(); stop();` has the words 0x400, 0x500, 0x200
(log 25). -/
theorem test_assemble_binding :
    assemble ['a', ' ', '=', ' ', 'r', 'e', 'a', 'd', 'A', 'c', 'k', '(', ')', ';', ' ',
      'b', ' ', '=', ' ', 'r', 'e', 'a', 'd', 'N', 'A', 'c', 'k', '(', ')', ';', ' ', 's', 't', 'o', 'p', '(', ')', ';'] =
      some [0x400#11, 0x500#11, 0x200#11] := by decide
/-- `Init()` and `byte(256)`: case-sensitive, 0..255. -/
theorem test_assemble_refuses :
    assemble ['I', 'n', 'i', 't', '(', ')'] = none ∧
    assemble ['b', 'y', 't', 'e', '(', '2', '5', '6', ')'] = none := by decide

/-! ### One step of each instruction (95_test_vectors.md 2.3 to 2.8) -/

/-- V-INIT-1: W(SR,0x00). -/
theorem test_init_prescale :
    (nextOf (exec (.init 0#8) (inPhase .i1 0 []))).map (fun t => (t.ph, t.events)) =
      some (.i2, [.write .SR 0x00#8]) := by decide
/-- V-INIT-1: W(BR,0x0C); V-INIT-2: W(BR,0x12). -/
theorem test_init_divisor :
    (nextOf (exec (.init 0#8) (inPhase .i2 0 []))).map (fun t => (t.ph, t.events)) =
      some (.i3, [.write .BR 0x0C#8]) ∧
    (nextOf (exec (.init 0#8) { inPhase .i2 0 [] with cfg := cfgOther })).map (fun t => t.events) =
      some [.write .BR 0x12#8] := by decide
/-- V-START-1: W(CR,0xA4), budget 80. -/
theorem test_start_trigger :
    (nextOf (exec (.start 0xA0#8) (inPhase .s1 0 []))).map (fun t => (t.ph, t.cnt, t.events)) =
      some (.s2, 80#17, [.write .CR 0xA4#8]) := by decide
/-- V-START-2: the first poll out of budget sets ERR bit 0 and ends the command. -/
theorem test_start_timeout :
    (nextOf (exec (.start 0xA0#8) (inPhase .s2 0 [0x80#8]))).map (fun t => (t.ph, t.err, traceOf t.events)) =
      some (.idle, 0x01#8, []) := by decide
/-- V-STOP-1: W(CR,0x94), CNT unchanged. -/
theorem test_stop :
    (nextOf (exec (.stop 0#8) (inPhase .p1 7 []))).map (fun t => (t.ph, t.cnt, t.events)) =
      some (.idle, 7#17, [.write .CR 0x94#8, .done none]) := by decide
/-- V-BYTE-4: the last permitted read still succeeds, CNT ends 1. -/
theorem test_byte_last_read :
    (nextOf (exec (.byte 0x33#8) (inPhase .b3 1 [0x80#8]))).map (fun t => (t.ph, t.cnt, t.err, t.events)) =
      some (.idle, 1#17, 0x00#8, [.read .CR 0x80#8, .done none]) := by decide
/-- V-BYTE-5: no read once CNT is 0. -/
theorem test_byte_timeout :
    (nextOf (exec (.byte 0x33#8) (inPhase .b3 0 [0x80#8]))).map (fun t => (t.ph, t.err, traceOf t.events)) =
      some (.idle, 0x04#8, []) := by decide
/-- V-RD-1: W(CR,0xC4). -/
theorem test_readAck_trigger :
    (nextOf (exec (.readAck 0#8) (inPhase .a1 0 []))).map (fun t => (t.ph, t.events)) =
      some (.a2, [.write .CR 0xC4#8]) := by decide
/-- V-RD-1: R(DR,0x5A), result 0x5A. -/
theorem test_readAck_data :
    (nextOf (exec (.readAck 0#8) (inPhase .a3 80 [0x5A#8]))).map (fun t => (t.ph, t.res, t.events)) =
      some (.idle, 0x5A#8, [.read .DR 0x5A#8, .done (some 0x5A#8)]) := by decide
/-- V-RD-2: W(CR,0x84). -/
theorem test_readNack_trigger :
    (nextOf (exec (.readNack 0#8) (inPhase .n1 0 []))).map (fun t => (t.ph, t.events)) =
      some (.n2, [.write .CR 0x84#8]) := by decide
/-- V-RD-9: RES 0x5A before, 0x00 after the timeout, ERR bit 4. -/
theorem test_readNack_timeout :
    (nextOf (exec (.readNack 0#8) { inPhase .n2 0 [] with res := 0x5A#8 })).map (fun t => (t.ph, t.res, t.err)) =
      some (.idle, 0x00#8, 0x10#8) := by decide
/-- 2.8: tx_start() makes INIT's writes. -/
theorem test_txStart :
    (nextOf (exec (.txStart 0#8) (inPhase .i3 0 []))).map (fun t => t.events) =
      some [.write .CR 0x04#8, .done none] := by decide
/-- 2.8: tx_address(0xA0) writes the latched address byte. -/
theorem test_txAddress :
    (nextOf (exec (.txAddress 0xA0#8) { inPhase .s3 0 [] with arg := 0xA0#8 })).map (fun t => (t.ph, t.events)) =
      some (.s4, [.write .DR 0xA0#8]) := by decide
/-- 2.8: tx_byte(0x05). -/
theorem test_txByte :
    (nextOf (exec (.txByte 0x05#8) State.reset)).map (fun t => (t.ph, t.op, t.arg, t.events)) =
      some (.b1, 3#3, 0x05#8, [.accept 0x305#11]) := by decide
/-- 2.8: tx_stop(). -/
theorem test_txStop :
    (nextOf (exec (.txStop 0#8) (inPhase .p1 0 []))).map (fun t => t.events) =
      some [.write .CR 0x94#8, .done none] := by decide

/-! ### The logical transaction state (40_sequencer_primitives.md R60; R92) -/

/-- A START that times out from IDLE leaves IDLE, STOP, INIT and a second START are within the contract, a BYTE is not (R92),
and the second START, when it succeeds, makes STARTED. -/
theorem test_start_retry :
    protocolOf [.accept 0x000#11, .done none, .accept 0x1A0#11, .timeout .start, .done none] = ⟨true, .idle, true, none, false⟩ ∧
    [0#3, 1#3, 2#3, 3#3].map (contractAllows ⟨true, .idle, true, none, false⟩) = [true, true, true, false] ∧
    protocolOf [.accept 0x000#11, .done none, .accept 0x1A0#11, .timeout .start, .done none, .accept 0x1A0#11, .done none] =
      ⟨true, .started, false, none, false⟩ := by decide
/-- 93_implementation_defined.md U2: a timed-out BYTE makes TXN unknown, a START does not lead out of it, STOP does. -/
theorem test_unknown_until_stop :
    (protocolOf [.accept 0x1A0#11, .done none, .accept 0x305#11, .timeout .byte, .done none, .accept 0x1A0#11, .done none]).txn =
      .unknown ∧
    (protocolOf [.accept 0x1A0#11, .done none, .accept 0x305#11, .timeout .byte, .done none, .accept 0x200#11, .done none]).txn =
      .idle := by decide

/-! ### The host's side and reset (95_test_vectors.md 2.9, 2.10) -/

/-- V-ERR-3: ERR 0x1D, write of 0xE2. -/
theorem test_err_write :
    (nextOf (step { State.reset with err := 0x1D#8, host := [⟨false, false, 0#11, true, 0xE2#8⟩] })).map (fun t => t.err) =
      some 0x02#8 := by decide
/-- V-ERR-5: a write while busy is ignored. -/
theorem test_err_write_busy :
    (nextOf (step { inPhase .b3 5 [0x00#8] with
        err := 0x04#8, host := [⟨false, false, 0#11, true, 0x00#8⟩] })).map (fun t => (t.err, t.cnt)) =
      some (0x04#8, 4#17) := by decide
/-- V-RST-1. -/
theorem test_reset :
    (nextOf (step { inPhase .b3 70 [] with
        err := 0x1F#8, res := 0x5A#8, host := [⟨true, true, 0x305#11, true, 0xFF#8⟩] })).map
      (fun t => (t.err, t.res, t.ph, t.cnt, t.events)) =
      some (0x00#8, 0x00#8, .idle, 0#17, [.reset]) := by decide
/-- The very next step takes the word of withFetchWord. -/
theorem test_withFetchWord :
    (nextOf (step (State.reset.withFetchWord 16 0x1A0))).map (fun t => (t.ph, t.op, t.arg, t.events)) =
      some (.s1, 1#3, 0xA0#8, [.accept 0x1A0#11]) := by decide

/-! ### Witnesses: a concrete state and operands that meet every hypothesis of each statement, clause by clause -/

theorem witness_EncodeOfDecodeIsTheWord : decode 0x5FF#11 = .instr (.readNack 0xFF#8) := by decide
theorem witness_ReservedWordsAreRefused :
    [0x600#11, 0x7FF#11].all (fun cw =>
      decide ((withInput (offer cw)).ph = .idle) && !(hostNow (withInput (offer cw))).rst &&
      (hostNow (withInput (offer cw))).cmdValid && (hostNow (withInput (offer cw))).cmdWord &&& 0x600#11 == 0x600#11) = true := by
  decide
theorem witness_ResetWinsAndClearsTheSixRegisters : (hostNow (withInput ⟨true, true, 0x600#11, true, 0xFF#8⟩)).rst = true := by
  decide
theorem reset_inv : Inv State.reset where
  err_reserved := by decide
  cnt_le := by decide
  op_legal := by decide
  op_phase := fun o h => by simp [State.reset, phaseOpcode, inFlight] at h
  mark_le := by decide
theorem witness_StepKeepsTheInvariant :
    Inv State.reset ∧ step State.reset = .next { State.reset with host := [], mark := 0 } := ⟨reset_inv, rfl⟩
theorem witness_ConfigurationNeverChanges :
    Host.Core.run Sys2Proof.core 1 State.reset = .next { State.reset with host := [], mark := 0 } := rfl
theorem witness_StepIsExecOfTheDecodedCommand :
    ((withInput (offer 0x1A0#11)).ph = .idle ∧ (hostNow (withInput (offer 0x1A0#11))).rst = false ∧
      (hostNow (withInput (offer 0x1A0#11))).cmdValid = true ∧
      decode (hostNow (withInput (offer 0x1A0#11))).cmdWord = .instr (.start 0xA0#8)) ∧
    ((hostNow (inPhase .n3 0 [])).rst = false ∧ inFlight (inPhase .n3 0 []).ph 0xA0#8 = some (.readNack 0xA0#8)) ∧
    (inPhase .i1 0 []).ph ≠ .idle := by decide
theorem witness_AcceptLatchesTheCommand :
    ((withInput ⟨false, true, 0x5FF#11, true, 0xFF#8⟩).ph = .idle ∧
      (hostNow (withInput ⟨false, true, 0x5FF#11, true, 0xFF#8⟩)).rst = false ∧
      (hostNow (withInput ⟨false, true, 0x5FF#11, true, 0xFF#8⟩)).cmdValid = true ∧
      ((hostNow (withInput ⟨false, true, 0x5FF#11, true, 0xFF#8⟩)).cmdWord.extractLsb' 8 3).toNat ≤ 5) ∧
    ((withInput ⟨false, false, 0#11, true, 0xFF#8⟩).ph = .idle ∧
      (hostNow (withInput ⟨false, false, 0#11, true, 0xFF#8⟩)).rst = false ∧
      (hostNow (withInput ⟨false, false, 0#11, true, 0xFF#8⟩)).cmdValid = false ∧
      (hostNow (withInput ⟨false, false, 0#11, true, 0xFF#8⟩)).errWr = true) ∧
    (inPhase .b3 1 []).ph ≠ .idle ∧
    (nextOf (step (withInput (offer 0x5FF#11)))).map (fun t => t.events.drop State.reset.events.length) =
      some [.accept 0x5FF#11] := by decide
theorem witness_IdleWithNothingOfferedStaysIdle :
    State.reset.ph = .idle ∧ (hostNow State.reset).rst = false ∧ (hostNow State.reset).cmdValid = false ∧
    (hostNow State.reset).errWr = false := by decide

/-- Every phase clause of the six phase-by-phase statements has a state in that phase. -/
theorem witness_phase (p : Phase) (c : Count) (l : List Byte) : (inPhase p c l).ph = p := rfl
/-- Every poll clause: CNT = 0, the flag seen on the last permitted read, and not seen. -/
theorem witness_poll (p : Phase) :
    (inPhase p 0 []).cnt = 0#17 ∧
    ((inPhase p 1 [0x80#8]).cnt ≠ 0#17 ∧ (regRead .CR (inPhase p 1 [0x80#8])).1 = 0x80#8 ∧
      (0x80#8).getLsbD (inPhase p 1 [0x80#8]).cfg.raw.intB.val = true) ∧
    ((inPhase p 1 [0x7F#8]).cnt ≠ 0#17 ∧ (regRead .CR (inPhase p 1 [0x7F#8])).1 = 0x7F#8 ∧
      (0x7F#8).getLsbD (inPhase p 1 [0x7F#8]).cfg.raw.intB.val = false) := by
  cases p <;> decide
theorem witness_InitRunsItsPhases :
    (Instr.init 0xFF#8 = .init 0xFF#8) ∧ [Phase.idle, .i1, .i2, .i3].map (fun p => (inPhase p 0 []).ph) = [.idle, .i1, .i2, .i3] := by
  decide
theorem witness_StartRunsItsPhases :
    (Instr.txAddress 0xFF#8 = .txAddress 0xFF#8) ∧
    [Phase.idle, .s1, .s2, .s3, .s4, .s5].map (fun p => (inPhase p 1 [0x80#8]).ph) = [.idle, .s1, .s2, .s3, .s4, .s5] := by decide
theorem witness_StopRunsItsPhases :
    (Instr.stop 0#8 = .stop 0#8) ∧ [Phase.idle, .p1].map (fun p => (inPhase p 0 []).ph) = [.idle, .p1] := by decide
theorem witness_ByteRunsItsPhases :
    (Instr.byte 0xFF#8 = .byte 0xFF#8) ∧
    [Phase.idle, .b1, .b2, .b3].map (fun p => (inPhase p 1 [0x80#8]).ph) = [.idle, .b1, .b2, .b3] := by decide
theorem witness_ReadAckRunsItsPhases :
    [Phase.idle, .a1, .a2, .a3].map (fun p => (inPhase p 1 [0x80#8]).ph) = [.idle, .a1, .a2, .a3] ∧
    (regRead .DR (inPhase .a3 1 [0xFF#8])).1 = 0xFF#8 := by decide
theorem witness_ReadNackRunsItsPhases :
    [Phase.idle, .n1, .n2, .n3].map (fun p => (inPhase p 1 [0x80#8]).ph) = [.idle, .n1, .n2, .n3] ∧
    (regRead .DR (inPhase .n3 1 [0x00#8])).1 = 0x00#8 := by decide
theorem witness_CommandOfAnotherPhaseDoesNothing :
    phaseOpcode (inPhase .s2 1 []).ph = some 1#3 ∧ 1#3 ≠ opcode (.stop 0#8) := by decide
theorem witness_ExecFrame :
    (∃ t, exec (.byte 5#8) (inPhase .b3 0 []) = .next t) ∧ (inPhase .b3 0 []).ph ≠ .idle ∧
    isReadCommand (.byte 5#8) = false ∧ causesOf (.stop 0#8) = [] := ⟨⟨_, rfl⟩, by decide, rfl, rfl⟩
theorem witness_TimeoutSetsOneBitAndEndsTheCommand :
    (hostNow (inPhase .n2 0 [])).rst = false ∧ phaseCause (inPhase .n2 0 []).ph = some .readNack ∧ (inPhase .n2 0 []).cnt = 0#17 ∧
    phaseCause (inPhase .b3 0 []).ph = some .byte := by decide
theorem witness_TriggerWritesAndLoadsTheFullBudget :
    (hostNow (inPhase .n1 0 [])).rst = false ∧
    [Phase.s1, .s4, .b2, .a1, .n1].map (fun p => (inPhase p 0 []).ph) = [.s1, .s4, .b2, .a1, .n1] := by decide
theorem witness_ErrIsStickyBetweenHostWrites :
    (hostNow (inPhase .b3 0 [])).rst = false ∧
    (nextOf (step (inPhase .b3 0 []))).map (fun t => t.err) = some 0x04#8 ∧ (inPhase .b3 0 []).ph ≠ .idle := by decide
theorem witness_HostWriteOfErr :
    ((withInput ⟨false, false, 0#11, true, 0xFF#8⟩).ph = .idle ∧
      (hostNow (withInput ⟨false, false, 0#11, true, 0xFF#8⟩)).rst = false ∧
      (hostNow (withInput ⟨false, false, 0#11, true, 0xFF#8⟩)).errWr = true ∧
      (hostNow (withInput ⟨false, false, 0#11, true, 0xFF#8⟩)).cmdValid = false) ∧
    ((withInput ⟨false, true, 0x305#11, true, 0x00#8⟩).ph = .idle ∧
      (hostNow (withInput ⟨false, true, 0x305#11, true, 0x00#8⟩)).rst = false ∧
      (hostNow (withInput ⟨false, true, 0x305#11, true, 0x00#8⟩)).errWr = true ∧
      (hostNow (withInput ⟨false, true, 0x305#11, true, 0x00#8⟩)).cmdValid = true ∧
      decode (hostNow (withInput ⟨false, true, 0x305#11, true, 0x00#8⟩)).cmdWord = .instr (.byte 0x05#8)) ∧
    (inPhase .b3 1 []).ph ≠ .idle := by decide
theorem witness_HostReadOfErr : Inv State.reset := reset_inv
theorem witness_RegAccessesAreSingleEvents : (regRead .DR (inPhase .a3 0 [0x5A#8])).1 = 0x5A#8 := by decide
theorem witness_AccessesFollowTheMatrix :
    (nextOf (step (inPhase .n3 0 [0x5A#8]))).map (fun t => t.events) = some [.read .DR 0x5A#8, .done (some 0x5A#8)] ∧
    (nextOf (step (inPhase .i1 0 []))).map (fun t => t.events) = some [.write .SR 0x00#8] := by decide
theorem witness_StepMakesAtMostOneAccess :
    (nextOf (step { inPhase .s3 0 [] with arg := 0xA0#8 })).map (fun t => (regWrPort t, regSelPort t, regWdataPort t)) =
      some (true, some 3#3, some 0xA0#8) ∧
    (nextOf (step (inPhase .s2 1 [0x00#8]))).map (fun t => (regRdPort t, regSelPort t, regWdataPort t)) =
      some (true, some 2#3, none) ∧
    (nextOf (step (inPhase .s2 0 []))).map (fun t => (regWrPort t, regRdPort t, regSelPort t)) =
      some (false, false, none) := by decide
theorem witness_OnlyTheCompletionFlagMatters :
    (nextOf (step (inPhase .s5 1 [0x7F#8]))).map (fun t => t.events.drop 0) = some [.read .CR 0x7F#8] ∧
    phaseCause (inPhase .a2 1 []).ph = some .readAck ∧ (inPhase .a2 1 []).cnt ≠ 0#17 ∧ (hostNow (inPhase .a2 1 [])).rst = false ∧
    (0x80#8).getLsbD (inPhase .a2 1 []).cfg.raw.intB.val = (0xFF#8).getLsbD (inPhase .a2 1 []).cfg.raw.intB.val ∧
    (nextOf (step { inPhase .a2 1 [] with env := .free [0x80#8] })).map (fun t => t.ph) = some .a3 := by decide
theorem witness_DonePulsesAtCompletion :
    (hostNow (inPhase .p1 0 [])).rst = false ∧ (nextOf (step (inPhase .p1 0 []))).map donePort = some true := by decide
theorem witness_PollReadsUntilTheFlagOrTheBudget :
    (∀ x ∈ [0x7F#8], x.getLsbD (inPhase .b3 2 []).cfg.raw.intB.val = false) ∧
    ([0x7F#8].length < (inPhase .b3 2 []).cnt.toNat ∧ (0x80#8).getLsbD (inPhase .b3 2 []).cfg.raw.intB.val = true) ∧
    [0x7F#8].length = (inPhase .b3 1 []).cnt.toNat := by decide
theorem witness_CommandStepsAreItsPseudocode : State.reset.ph = .idle := rfl
theorem witness_RunOfACommandIsItsPseudocode :
    (withInput (offer 0x200#11)).ph = .idle ∧ (hostNow (withInput (offer 0x200#11))).rst = false ∧
    (hostNow (withInput (offer 0x200#11))).cmdValid = true ∧ (hostNow (withInput (offer 0x200#11))).cmdWord = encode (.stop 0#8) ∧
    NoReset (maxSteps (toBudget (withInput (offer 0x200#11)).cfg.raw) (.stop 0#8)) (beginStep (withInput (offer 0x200#11))) :=
  ⟨rfl, rfl, rfl, rfl, fun h hh => by simp [beginStep, withInput] at hh⟩
theorem witness_BusyBlockComesBackToIdle :
    Inv (inPhase .i1 0 []) ∧ (inPhase .i1 0 []).ph ≠ .idle ∧
    NoReset (2 * toBudget (inPhase .i1 0 []).cfg.raw + 4) (inPhase .i1 0 []) where
  left :=
    { err_reserved := by decide
      cnt_le := by decide
      op_legal := by decide
      op_phase := fun o h => by
        simp only [inPhase, phaseOpcode, inFlight, Option.map_some, Option.some.injEq] at h
        exact h
      mark_le := by decide }
  right := ⟨by decide, fun h hh => by simp [inPhase, State.reset] at hh⟩
theorem witness_ResultIsTheByteReadOrZero : isReadCommand (.stop 0#8) = false ∧ isReadCommand (.readNack 0#8) = true := by decide
theorem witness_DeadControllerTimesOutEveryPoll : ({ State.reset with env := .dead } : State).env = .dead := rfl
theorem witness_ResponsiveControllerNeverTimesOut :
    ({ State.reset with env := envResponsive [0x5A#8] } : State).env = envResponsive [0x5A#8] := rfl
theorem witness_ErrOpResAndHistoryNeverSteerAStep :
    SameControl State.reset { State.reset with err := 0x1F#8, op := 5#3, res := 0x5A#8, events := [.reset], mark := 1 } ∧
    step State.reset = .next { State.reset with host := [], mark := 0 } ∧
    step (withInput (offer 0x600#11)) = .refused (.reservedCommand 0x600#11) :=
  ⟨⟨rfl, rfl, rfl, rfl, rfl, rfl, rfl⟩, rfl, rfl⟩
theorem witness_HiddenRegistersAreNeverObserved :
    State.reset.ph = .idle ∧ Host.Core.run Sys2Proof.core 1 State.reset = .next { State.reset with host := [], mark := 0 } :=
  ⟨rfl, rfl⟩
theorem witness_TransactionStateFollowsTheHistory :
    (protocolOf State.reset.events).txn = .idle ∧
    ((protocolOf [.accept 0x1A0#11, .done none]).txn = .started ∧
      Happened { State.reset with env := envResponsive [], events := [.accept 0x1A0#11, .done none] }
        (commandEffect (.start 0xA0#8)
          { State.reset with env := envResponsive [], events := [.accept 0x1A0#11, .done none] })
        [.accept 0x1A0#11, .write .CR 0xA4#8, .read .CR 0x80#8, .write .DR 0xA0#8, .write .CR 0x84#8, .read .CR 0x80#8,
          .done none]) := by
  unfold Happened; decide

end Sys2Proof.Tests
end

section
/-! SUPPORT. The family of 00_scope.md: the configuration arithmetic (R5 to R9) and that no run changes the configuration
(R4). -/

namespace Sys2Proof

/-! ### What the numbers of a valid configuration are -/

theorem ValidConfig.sclHz_pos (c : ValidConfig) : 0 < c.raw.sclHz := by
  obtain ⟨-, hscl, -⟩ := c.conditions
  exact hscl

theorem ValidConfig.ratio_ge (c : ValidConfig) : 16 ≤ Machine.ratio c.raw := by
  obtain ⟨-, -, -, hratio, -⟩ := c.conditions
  exact hratio

/-- 00_scope.md R6, in the reading of log 3. -/
theorem ValidConfig.prescale_eq (c : ValidConfig) : c.raw.prescale = 4 ^ (Machine.psCode c.raw).toNat := by
  obtain ⟨-, -, h, -, -⟩ := c.conditions
  rcases h with h | h | h | h <;> simp [Machine.psCode, h]

/-- The divisor in R7 is positive, so that its floor is the integer division. -/
theorem ValidConfig.divisor_pos (c : ValidConfig) : (0 : Int) < c.raw.prescale * 2 := by
  have h : 0 < c.raw.prescale := c.prescale_eq ▸ Nat.pow_pos (by decide)
  omega

theorem ValidConfig.brDiv_nonneg (c : ValidConfig) : 0 ≤ Machine.brDiv c.raw := by
  have h := c.ratio_ge
  exact Int.ediv_nonneg (by omega) c.divisor_pos.le

theorem ValidConfig.brDiv_le (c : ValidConfig) : Machine.brDiv c.raw ≤ 255 := by
  obtain ⟨-, -, -, -, hdiv⟩ := c.conditions
  exact hdiv

/-- Cutting BR_DIV to a byte loses nothing (20_memory.md R33). -/
theorem ValidConfig.brDivByte_toNat (c : ValidConfig) :
    ((Machine.brDivByte c.raw).toNat : Int) = Machine.brDiv c.raw := by
  have h0 := c.brDiv_nonneg
  have h1 := c.brDiv_le
  rw [Machine.brDivByte, BitVec.toNat_ofInt]
  omega

theorem ValidConfig.toBudget_ge (c : ValidConfig) : 32 ≤ Machine.toBudget c.raw := by
  have h := c.ratio_ge
  unfold Machine.toBudget; omega

theorem ValidConfig.toBudget_le (c : ValidConfig) : Machine.toBudget c.raw ≤ 65566 := by
  have h := c.ratio_le
  unfold Machine.toBudget; omega

/-- Loading the budget into CNT loses nothing (40_sequencer_primitives.md R59b). -/
@[simp] theorem ValidConfig.toBudgetCount_toNat (c : ValidConfig) :
    (Machine.toBudgetCount c.raw).toNat = Machine.toBudget c.raw := by
  have h := c.toBudget_le
  rw [Machine.toBudgetCount, BitVec.toNat_ofNat, Nat.mod_eq_of_lt (by omega)]

end Sys2Proof

namespace Sys2Proof.Machine

/-! ### No operation, no instruction and no step changes the configuration -/

/-- A poll step keeps the configuration when its success continuation does. -/
theorem pollStep_cfg {ok : State → State} (hok : ∀ t, (ok t).cfg = t.cfg) (n : Cause) (s : State) :
    (pollStep n ok s).cfg = s.cfg := by
  rcases pollStep_cases n ok s with ⟨-, h⟩ | ⟨-, -, h⟩ | ⟨-, -, h⟩ <;> simp [h, hok]

@[simp] theorem initSteps_cfg (cw : CmdWord) (s : State) : (initSteps cw s).cfg = s.cfg := by
  unfold initSteps; split <;> simp

@[simp] theorem startSteps_cfg (cw : CmdWord) (s : State) : (startSteps cw s).cfg = s.cfg := by
  unfold startSteps; split <;> simp [pollStep_cfg (goto_cfg .s3), pollStep_cfg complete_cfg]

@[simp] theorem stopSteps_cfg (cw : CmdWord) (s : State) : (stopSteps cw s).cfg = s.cfg := by
  unfold stopSteps; split <;> simp

@[simp] theorem byteSteps_cfg (cw : CmdWord) (s : State) : (byteSteps cw s).cfg = s.cfg := by
  unfold byteSteps; split <;> simp [pollStep_cfg complete_cfg]

@[simp] theorem readAckSteps_cfg (cw : CmdWord) (s : State) : (readAckSteps cw s).cfg = s.cfg := by
  unfold readAckSteps; split <;> simp [pollStep_cfg (goto_cfg .a3)]

@[simp] theorem readNackSteps_cfg (cw : CmdWord) (s : State) : (readNackSteps cw s).cfg = s.cfg := by
  unfold readNackSteps; split <;> simp [pollStep_cfg (goto_cfg .n3)]

@[simp] theorem stepOf_cfg (i : Instr) (s : State) : (stepOf i s).cfg = s.cfg := by
  cases i <;> simp [stepOf]

theorem step_cfg {s t : State} (h : step s = .next t) : t.cfg = s.cfg := by
  rcases step_cases s with ⟨-, e⟩ | ⟨-, -, -, e⟩ | ⟨-, -, -, i, -, e⟩ | ⟨-, -, -, -, e⟩ | ⟨-, -, i, -, e⟩ <;>
    rw [e] at h <;> cases h <;> simp

/-! ### Runs -/

/-- A run of `n + 1` steps is one step and a run of `n`. -/
theorem run_succ_eq_next_iff (M : Host.Core) (n : Nat) (s t : M.State) :
    M.run (n + 1) s = .next t ↔ ∃ u, M.step s = .next u ∧ M.run n u = .next t := by
  rw [Host.Core.run]
  cases M.step s <;> simp

/-- What every step keeps, every run keeps. -/
theorem run_keeps {M : Host.Core} {P : M.State → Prop} (hstep : ∀ s t, P s → M.step s = .next t → P t) (n : Nat)
    {s t : M.State} (hs : P s) (hrun : M.run n s = .next t) : P t := by
  induction n generalizing s with
  | zero => cases hrun; exact hs
  | succ n ih =>
    obtain ⟨u, hu, hrest⟩ := (run_succ_eq_next_iff M n s t).mp hrun
    exact ih (hstep s u hs hu) hrest

end Sys2Proof.Machine

namespace Sys2Proof.Proofs

open Sys2Proof Sys2Proof.Machine

/-- Settles O1: each floor is what integer division by a positive number gives, and the byte range of BR_DIV comes from
R8's last two conditions. -/
theorem configurationArithmeticIsTheFloors : Obligations.ConfigurationArithmeticIsTheFloors := by
  intro c
  have hratio : ratio c.raw * c.raw.sclHz ≤ c.raw.cpuHz ∧ c.raw.cpuHz < (ratio c.raw + 1) * c.raw.sclHz :=
    ⟨Nat.div_mul_le_self _ _, Nat.mul_comm _ _ ▸ Nat.lt_mul_div_succ _ c.sclHz_pos⟩
  have hbrDiv : brDiv c.raw * (c.raw.prescale * 2) ≤ (ratio c.raw : Int) - 16 ∧
      (ratio c.raw : Int) - 16 < (brDiv c.raw + 1) * (c.raw.prescale * 2) :=
    ⟨Int.ediv_mul_le _ c.divisor_pos.ne', Int.lt_ediv_add_one_mul_self _ c.divisor_pos⟩
  exact ⟨hratio, c.prescale_eq, hbrDiv, c.brDiv_nonneg, c.brDiv_le, c.brDivByte_toNat⟩

/-- Settles O2, from the bounds of RATIO: R8 asks for at least 16, and BR_DIV ≤ 255 leaves at most 32783. -/
theorem budgetFitsTheCounter : Obligations.BudgetFitsTheCounter :=
  fun c => ⟨rfl, c.toBudget_ge, c.toBudget_le, c.toBudgetCount_toNat⟩

/-- Settles O14, by induction on the number of steps: having the configuration of `s` is kept by every step. -/
theorem configurationNeverChanges : Obligations.ConfigurationNeverChanges := by
  intro n s t hrun
  have hstep : ∀ u v : State, u.cfg = s.cfg → step u = .next v → v.cfg = s.cfg :=
    fun _ _ hu h => (step_cfg h).trans hu
  exact run_keeps (M := Sys2Proof.core) hstep n rfl hrun

end Sys2Proof.Proofs
end

section
/-! SUPPORT. The family of 10_state.md: what a step can do to the six registers (R13 to R19), read off the phase table once,
and from it the invariant, the sticky ERR, RES after a command and the two noninterference statements. -/

namespace Sys2Proof.Machine

/-! ### The phase table as data -/

/-- What a phase does in its one step (40_sequencer_primitives.md R58): a register write, a trigger or a poll, each with the
phase that follows it, or the read of DR that ends a read command. IDLE as the phase that follows completes the command. -/
inductive PhaseRow where
  | write (r : PReg) (v : Config → Byte → Byte) (next : Phase)
  | trigger (m : Config → Byte) (next : Phase)
  | poll (n : Cause) (next : Phase)
  | readData

/-- The row of each phase (40_sequencer_primitives.md R58); IDLE's work is the host's and has no row. -/
def phaseRow : Phase → Option PhaseRow
  | .idle => none
  | .i1 => some (.write .SR (fun c _ => psByte c) .i2)
  | .i2 => some (.write .BR (fun c _ => brDivByte c) .i3)
  | .i3 => some (.write .CR (fun c _ => cwEnable c) .idle)
  | .s1 => some (.trigger cwStart .s2)
  | .s2 => some (.poll .start .s3)
  | .s3 => some (.write .DR (fun _ arg => arg) .s4)
  | .s4 => some (.trigger cwXfer .s5)
  | .s5 => some (.poll .address .idle)
  | .p1 => some (.write .CR (fun c _ => cwStop c) .idle)
  | .b1 => some (.write .DR (fun _ arg => arg) .b2)
  | .b2 => some (.trigger cwXfer .b3)
  | .b3 => some (.poll .byte .idle)
  | .a1 => some (.trigger cwXferAck .a2)
  | .a2 => some (.poll .readAck .a3)
  | .a3 => some .readData
  | .n1 => some (.trigger cwXfer .n2)
  | .n2 => some (.poll .readNack .n3)
  | .n3 => some .readData

/-- Leave a phase for `q`: completion when `q` is IDLE. -/
def leaveFor : Phase → State → State
  | .idle, s => complete s
  | q, s => goto q s

/-- One step of a row. -/
def PhaseRow.step : PhaseRow → State → State
  | .write r v q, s => leaveFor q (regWrite r (v s.cfg.raw s.arg) s)
  | .trigger m q, s => goto q (Machine.trigger (m s.cfg.raw) s)
  | .poll n q, s => pollStep n (leaveFor q) s
  | .readData, s => Machine.readData s

/-- The phase that follows a row's when it is left without a timeout. -/
def PhaseRow.next : PhaseRow → Phase
  | .write _ _ q => q
  | .trigger _ q => q
  | .poll _ q => q
  | .readData => .idle

/-- The rows are the model's: the command in flight does the work of PH's row. -/
theorem inFlight_of_phaseRow {p : Phase} {row : PhaseRow} (h : phaseRow p = some row) (arg : Byte) :
    ∃ i, inFlight p arg = some i ∧ ∀ s : State, s.ph = p → stepOf i s = row.step s := by
  cases p <;> cases h <;> refine ⟨_, rfl, fun s hp => ?_⟩ <;>
    simp only [stepOf, initSteps, startSteps, stopSteps, byteSteps, readAckSteps, readNackSteps, hp] <;> rfl

theorem phaseRow_eq_none_iff {p : Phase} : phaseRow p = none ↔ p = .idle := by
  cases p <;> simp [phaseRow]

/-- A poll row is a poll phase with its cause (60_exceptions.md R72). -/
theorem phaseCause_of_phaseRow {p : Phase} {n : Cause} {q : Phase} (h : phaseRow p = some (.poll n q)) :
    phaseCause p = some n := by
  cases p <;> cases h <;> rfl

/-- The phase that follows a row's is IDLE or of the same command. -/
theorem phaseOpcode_next {p : Phase} {row : PhaseRow} (h : phaseRow p = some row) :
    phaseOpcode row.next = none ∨ phaseOpcode row.next = phaseOpcode p := by
  cases p <;> cases h <;> simp [PhaseRow.next, phaseOpcode, inFlight, opcode]

/-- No poll phase follows a plain write: it follows its trigger (40_sequencer_primitives.md R58). -/
theorem phaseCause_next_of_write {p : Phase} {r : PReg} {v : Config → Byte → Byte} {q : Phase}
    (h : phaseRow p = some (.write r v q)) : phaseCause q = none := by
  cases p <;> cases h <;> rfl

/-- The first phase of a command does not poll (40_sequencer_primitives.md R58). -/
theorem phaseCause_firstPhase (i : Instr) : phaseCause (firstPhase (opcode i)) = none := by
  cases i <;> rfl

/-! ### What leaving a phase changes -/

theorem leaveFor_of_ne_idle {q : Phase} (h : q ≠ .idle) (s : State) : leaveFor q s = goto q s := by
  cases q <;> simp [leaveFor] at h ⊢

@[simp] theorem leaveFor_err (q : Phase) (s : State) : (leaveFor q s).err = s.err := by cases q <;> rfl
@[simp] theorem leaveFor_cnt (q : Phase) (s : State) : (leaveFor q s).cnt = s.cnt := by cases q <;> rfl
@[simp] theorem leaveFor_ph (q : Phase) (s : State) : (leaveFor q s).ph = q := by cases q <;> rfl
@[simp] theorem leaveFor_op (q : Phase) (s : State) : (leaveFor q s).op = s.op := by cases q <;> rfl
@[simp] theorem leaveFor_arg (q : Phase) (s : State) : (leaveFor q s).arg = s.arg := by cases q <;> rfl
@[simp] theorem leaveFor_cfg (q : Phase) (s : State) : (leaveFor q s).cfg = s.cfg := by cases q <;> rfl
@[simp] theorem leaveFor_mark (q : Phase) (s : State) : (leaveFor q s).mark = s.mark := by cases q <;> rfl
@[simp] theorem leaveFor_events (q : Phase) (s : State) :
    (leaveFor q s).events = s.events ++ if q = .idle then [Event.done none] else [] := by
  cases q <;> simp [leaveFor]

/-! ### What a row changes -/

/-- Every row keeps OP, ARG, the configuration and the mark. -/
theorem PhaseRow.step_frame (row : PhaseRow) (s : State) :
    (row.step s).op = s.op ∧ (row.step s).arg = s.arg ∧ (row.step s).cfg = s.cfg ∧ (row.step s).mark = s.mark := by
  cases row with
  | write r v q => simp [step]
  | trigger m q => simp [step]
  | poll n q => rcases pollStep_cases n (leaveFor q) s with ⟨-, h⟩ | ⟨-, -, h⟩ | ⟨-, -, h⟩ <;> simp [step, h]
  | readData => simp [step]

/-- A row stays (a poll that reads on), moves to the phase that follows, or ends the command (a timeout). -/
theorem PhaseRow.step_ph (row : PhaseRow) (s : State) :
    (row.step s).ph = s.ph ∨ (row.step s).ph = row.next ∨ (row.step s).ph = .idle := by
  cases row with
  | write r v q => simp [step, next]
  | trigger m q => simp [step, next]
  | poll n q => rcases pollStep_cases n (leaveFor q) s with ⟨-, h⟩ | ⟨-, -, h⟩ | ⟨-, -, h⟩ <;> simp [step, next, h]
  | readData => simp [step]

/-- CNT is kept, loaded with the budget, or counted down from above 0 (40_sequencer_primitives.md R59). -/
theorem PhaseRow.step_cnt (row : PhaseRow) (s : State) :
    (row.step s).cnt = s.cnt ∨ (row.step s).cnt = toBudgetCount s.cfg.raw ∨
    (s.cnt ≠ 0#17 ∧ (row.step s).cnt = s.cnt - 1#17) := by
  cases row with
  | write r v q => simp [step]
  | trigger m q => simp [step]
  | poll n q => rcases pollStep_cases n (leaveFor q) s with ⟨-, h⟩ | ⟨-, -, h⟩ | ⟨hc, -, h⟩ <;> simp [step, *]
  | readData => simp [step]

/-- ERR is kept, or a poll with CNT = 0 sets the bit of its cause (10_state.md R15). -/
theorem PhaseRow.step_err (row : PhaseRow) (s : State) :
    (row.step s).err = s.err ∨
    ∃ n q, row = .poll n q ∧ s.cnt = 0#17 ∧ (row.step s).err = errSet s.err n := by
  cases row with
  | write r v q => simp [step]
  | trigger m q => simp [step]
  | poll n q => rcases pollStep_cases n (leaveFor q) s with ⟨hc, h⟩ | ⟨-, -, h⟩ | ⟨-, -, h⟩ <;> simp [step, *]
  | readData => simp [step]

theorem PhaseRow.step_events_prefix (row : PhaseRow) (s : State) : s.events <+: (row.step s).events := by
  cases row with
  | write r v q => simp [step]
  | trigger m q => simp [step]
  | poll n q => rcases pollStep_cases n (leaveFor q) s with ⟨-, h⟩ | ⟨-, -, h⟩ | ⟨-, -, h⟩ <;> simp [step, h]
  | readData => simp [step]

/-! ### All a step can do, as a function of the ports and PH -/

/-- In every state with PH = `p` and the port values `h`, the step does `f` after using up the ports. -/
def StepsBy (h : HostInput) (p : Phase) (f : State → State) : Prop :=
  ∀ s : State, hostNow s = h → s.ph = p → step s = .next (f (beginStep s))

theorem StepsBy.eq_of_step {s t : State} {f : State → State} (hf : StepsBy (hostNow s) s.ph f)
    (hs : step s = .next t) : t = f (beginStep s) := by
  rw [hf s rfl rfl] at hs
  cases hs
  rfl

/-- All a step can do, and that the ports and PH alone settle which of it happens: reset, the host's side of an IDLE step,
an accept after it, the row of the phase, or a refusal. -/
theorem stepsBy_cases (h : HostInput) (p : Phase) :
    (StepsBy h p applyReset ∧ h.rst = true) ∨
    (StepsBy h p (hostErrWrite h) ∧ p = .idle) ∨
    (∃ i, StepsBy h p (fun s => accept (encode i) (hostErrWrite h s)) ∧ p = .idle) ∨
    (∃ row, StepsBy h p row.step ∧ phaseRow p = some row) ∨
    (∃ r, ∀ s : State, hostNow s = h → s.ph = p → step s = .refused r) := by
  cases hr : h.rst with
  | true =>
    refine .inl ⟨fun s hh hp => ?_, rfl⟩
    simp [step, cycle, hh, hr]
  | false =>
    cases hrow : phaseRow p with
    | some row =>
      refine .inr (.inr (.inr (.inl ⟨row, fun s hh hp => ?_, rfl⟩)))
      obtain ⟨i, hi, hstep⟩ := inFlight_of_phaseRow hrow s.arg
      simp [step, cycle, hh, hr, hp, hi, exec_eq_next, hstep]
    | none =>
      have hidle : p = .idle := phaseRow_eq_none_iff.mp hrow
      cases hv : h.cmdValid with
      | false =>
        refine .inr (.inl ⟨fun s hh hp => ?_, hidle⟩)
        simp [step, cycle, hh, hr, hp, hidle, inFlight, idleStep, hv]
      | true =>
        cases hd : decode h.cmdWord with
        | instr i =>
          refine .inr (.inr (.inl ⟨i, fun s hh hp => ?_, hidle⟩))
          simp [step, cycle, hh, hr, hp, hidle, inFlight, idleStep, hv, hd, exec_eq_next, stepOf_idle]
        | reserved o =>
          refine .inr (.inr (.inr (.inr ⟨.reservedCommand h.cmdWord, fun s hh hp => ?_⟩)))
          simp [step, cycle, hh, hr, hp, hidle, inFlight, idleStep, hv, hd]
        | tooWide =>
          refine .inr (.inr (.inr (.inr ⟨.reservedCommand h.cmdWord, fun s hh hp => ?_⟩)))
          simp [step, cycle, hh, hr, hp, hidle, inFlight, idleStep, hv, hd]

/-! ### The invariant -/

/-- Setting a flag, or writing the five defined bits, leaves bits 7..5 of ERR at 0 (10_state.md R14). -/
theorem errSet_reserved {e : Byte} (h : e &&& 0xE0#8 = 0#8) (n : Cause) : errSet e n &&& 0xE0#8 = 0#8 := by
  have hmask : errMask n &&& 0xE0#8 = 0#8 := by cases n <;> decide
  rw [errSet, BitVec.and_comm, BitVec.and_or_distrib_left, BitVec.and_comm, h, BitVec.and_comm, hmask]
  rfl

theorem errWritten_reserved (v : Byte) : errWritten v &&& 0xE0#8 = 0#8 := by
  rw [errWritten, BitVec.and_assoc]
  simp [errDefined]

theorem opcode_toNat_le (i : Instr) : (opcode i).toNat ≤ 5 := by
  cases i <;> simp [opcode]

theorem phaseOpcode_firstPhase (i : Instr) : phaseOpcode (firstPhase (opcode i)) = some (opcode i) := by
  cases i <;> rfl

end Sys2Proof.Machine

namespace Sys2Proof

open Machine

theorem Inv.beginStep {s : State} (h : Inv s) : Inv (beginStep s) :=
  { h with mark_le := le_rfl }

theorem Inv.applyReset {s : State} (h : Inv s) : Inv (applyReset s) where
  err_reserved := by simp
  cnt_le := Nat.zero_le _
  op_legal := Nat.zero_le _
  op_phase := fun _ ho => nomatch ho
  mark_le := h.mark_le.trans (by simp)

theorem Inv.hostErrWrite {s : State} (h : Inv s) (x : HostInput) : Inv (hostErrWrite x s) where
  err_reserved := by
    rw [hostErrWrite_err]
    split
    · exact errWritten_reserved _
    · exact h.err_reserved
  cnt_le := by simpa using h.cnt_le
  op_legal := by simpa using h.op_legal
  op_phase := by simpa using h.op_phase
  mark_le := by simpa using h.mark_le.trans (Nat.le_add_right _ _)

/-- Accept latches the opcode whose first phase it enters (40_sequencer_primitives.md R52). -/
theorem Inv.accept {s : State} (h : Inv s) (i : Instr) : Inv (accept (encode i) s) where
  err_reserved := h.err_reserved
  cnt_le := h.cnt_le
  op_legal := by simpa using opcode_toNat_le i
  op_phase := fun o ho => by simpa [phaseOpcode_firstPhase] using ho
  mark_le := h.mark_le.trans (by simp)

theorem Inv.phaseRow_step {s : State} (h : Inv s) {row : PhaseRow} (hrow : phaseRow s.ph = some row) :
    Inv (row.step s) := by
  obtain ⟨hop, -, hcfg, hmark⟩ := row.step_frame s
  refine { err_reserved := ?_, cnt_le := ?_, op_legal := hop ▸ h.op_legal, op_phase := fun o ho => ?_, mark_le := ?_ }
  · rcases row.step_err s with herr | ⟨n, -, -, -, herr⟩
    · exact herr ▸ h.err_reserved
    · exact herr ▸ errSet_reserved h.err_reserved n
  · have hle := h.cnt_le
    rw [hcfg]
    rcases row.step_cnt s with hcnt | hcnt | ⟨hne, hcnt⟩ <;> rw [hcnt]
    · exact hle
    · exact s.cfg.toBudgetCount_toNat.le
    · have hpos : s.cnt.toNat ≠ 0 := fun h0 => hne (BitVec.eq_of_toNat_eq h0)
      have hpred := cnt_pred s.cnt (s.cnt.toNat - 1) (by omega)
      omega
  · rw [hop]
    rcases row.step_ph s with hph | hph | hph <;> rw [hph] at ho
    · exact h.op_phase o ho
    · rcases phaseOpcode_next hrow with hnone | hsame
      · cases hnone.symm.trans ho
      · exact h.op_phase o (hsame ▸ ho)
    · cases ho
  · rw [hmark]
    exact h.mark_le.trans (row.step_events_prefix s).length_le

end Sys2Proof

namespace Sys2Proof.Machine

/-! ### ERR -/

/-- Setting a flag clears none (10_state.md R15). -/
theorem and_errSet (e : Byte) (n : Cause) : e &&& errSet e n = e := by
  ext i hi
  simp +contextual [errSet]

/-- All that can happen to ERR in a step with no reset. -/
theorem step_err_cases {s t : State} (hrst : (hostNow s).rst = false) (hst : step s = .next t) :
    t.err = s.err ∨
    (∃ n, phaseCause s.ph = some n ∧ s.cnt = 0#17 ∧ t.err = errSet s.err n) ∨
    (s.ph = .idle ∧ (hostNow s).errWr = true ∧ t.err = errWritten (hostNow s).errWdata) := by
  have hhost (hidle : s.ph = .idle) (herr : t.err = (hostErrWrite (hostNow s) (beginStep s)).err) :
      t.err = s.err ∨ (s.ph = .idle ∧ (hostNow s).errWr = true ∧ t.err = errWritten (hostNow s).errWdata) := by
    cases hwr : (hostNow s).errWr <;> simp [herr, hwr, hidle]
  rcases stepsBy_cases (hostNow s) s.ph with
    ⟨-, hrst'⟩ | ⟨hf, hidle⟩ | ⟨i, hf, hidle⟩ | ⟨row, hf, hrow⟩ | ⟨r, hrefused⟩
  · cases hrst.symm.trans hrst'
  · exact (hhost hidle (by rw [hf.eq_of_step hst])).imp_right .inr
  · exact (hhost hidle (by rw [hf.eq_of_step hst, accept_err])).imp_right .inr
  · obtain rfl := hf.eq_of_step hst
    refine (row.step_err (beginStep s)).imp_right fun ⟨n, q, hpoll, hcnt, herr⟩ => .inl ⟨n, ?_, hcnt, herr⟩
    exact phaseCause_of_phaseRow (hpoll ▸ hrow)
  · cases (hrefused s rfl rfl).symm.trans hst

/-! ### Two states in lockstep -/

/-- `s` and `t` are reached from `a` and `b` by the same events and agree in what the control depends on. -/
structure Lockstep (a b s t : State) : Prop where
  control : SameControl s t
  sameEvents : ∃ ev, Claims.Happened a s ev ∧ Claims.Happened b t ev

namespace Lockstep

variable {a b s t : State}

theorem beginStep (h : SameControl s t) : Lockstep s t (beginStep s) (beginStep t) where
  control := { h with host := by simp [h.host] }
  sameEvents := ⟨[], by simp [Claims.Happened]⟩

theorem emit (h : Lockstep a b s t) (e : Event) : Lockstep a b (emit e s) (emit e t) where
  control := { h.control with }
  sameEvents := by
    obtain ⟨ev, hs, ht⟩ := h.sameEvents
    exact ⟨ev ++ [e], by simp_all [Claims.Happened]⟩

theorem goto (h : Lockstep a b s t) (p : Phase) : Lockstep a b (goto p s) (goto p t) :=
  ⟨{ h.control with ph := rfl }, h.sameEvents⟩

theorem regWrite (h : Lockstep a b s t) (r : PReg) (v : Byte) : Lockstep a b (regWrite r v s) (regWrite r v t) :=
  h.emit _

theorem regRead_fst (h : Lockstep a b s t) (r : PReg) : (regRead r t).1 = (regRead r s).1 := by
  simp [regRead, h.control.cfg, h.control.draws, h.control.env]

theorem regRead_snd (h : Lockstep a b s t) (r : PReg) : Lockstep a b (regRead r s).2 (regRead r t).2 := by
  obtain ⟨control, sameEvents⟩ := h.emit (.read r (regRead r s).1)
  refine ⟨{ control with env := ?_, draws := ?_ }, ?_⟩
  · simp [h.control.cfg, h.control.draws, h.control.env]
  · simp [h.control.cfg, h.control.draws, h.control.env]
  · simpa [Claims.Happened, h.regRead_fst] using sameEvents

theorem accept (h : Lockstep a b s t) (cw : CmdWord) : Lockstep a b (accept cw s) (accept cw t) :=
  ⟨{ h.control with ph := rfl, arg := rfl }, (h.emit _).sameEvents⟩

theorem complete (h : Lockstep a b s t) : Lockstep a b (complete s) (complete t) :=
  (h.goto .idle).emit _

theorem completeRead (h : Lockstep a b s t) (v : Byte) : Lockstep a b (completeRead v s) (completeRead v t) :=
  ⟨{ h.control with ph := rfl }, (h.emit _).sameEvents⟩

theorem leaveFor (h : Lockstep a b s t) (q : Phase) : Lockstep a b (leaveFor q s) (leaveFor q t) := by
  by_cases hq : q = .idle
  · exact hq ▸ h.complete
  · simpa [leaveFor_of_ne_idle hq] using h.goto q

theorem trigger (h : Lockstep a b s t) (m : Byte) : Lockstep a b (trigger m s) (trigger m t) :=
  ⟨{ h.control with cnt := by simp [h.control.cfg], env := by simp [h.control.env] }, (h.emit _).sameEvents⟩

theorem raiseTimeout (h : Lockstep a b s t) (n : Cause) : Lockstep a b (raiseTimeout n s) (raiseTimeout n t) := by
  have hset : Lockstep a b { s with err := errSet s.err n } { t with err := errSet t.err n } :=
    ⟨{ h.control with }, h.sameEvents⟩
  have hev := hset.emit (.timeout n)
  unfold Machine.raiseTimeout
  split
  · exact hev.completeRead _
  · exact hev.complete

theorem pollStep (h : Lockstep a b s t) (n : Cause) (q : Phase) :
    Lockstep a b (pollStep n (Machine.leaveFor q) s) (pollStep n (Machine.leaveFor q) t) := by
  have hread := h.regRead_snd .CR
  unfold Machine.pollStep
  simp only [h.control.cnt, h.control.cfg, h.regRead_fst]
  split
  · exact h.raiseTimeout n
  · split
    · exact hread.leaveFor q
    · exact ⟨{ hread.control with cnt := by simp [h.control.cnt] }, hread.sameEvents⟩

theorem readData (h : Lockstep a b s t) : Lockstep a b (readData s) (readData t) := by
  simpa [Machine.readData, h.regRead_fst] using (h.regRead_snd .DR).completeRead _

theorem phaseRow_step (h : Lockstep a b s t) (row : PhaseRow) : Lockstep a b (row.step s) (row.step t) := by
  cases row with
  | write r v q => simpa [PhaseRow.step, h.control.cfg, h.control.arg] using (h.regWrite r _).leaveFor q
  | trigger m q => simpa [PhaseRow.step, h.control.cfg] using (h.trigger _).goto q
  | poll n q => exact h.pollStep n q
  | readData => exact h.readData

theorem hostErrWrite (h : Lockstep a b s t) (x : HostInput) : Lockstep a b (hostErrWrite x s) (hostErrWrite x t) := by
  unfold Machine.hostErrWrite
  split
  · exact ⟨{ h.control with }, (h.emit _).sameEvents⟩
  · exact h

theorem applyReset (h : Lockstep a b s t) : Lockstep a b (applyReset s) (applyReset t) :=
  ⟨{ h.control with cnt := rfl, ph := rfl, arg := rfl }, (h.emit _).sameEvents⟩

/-- Steps that end in lockstep are alike in what the statement of noninterference asks. -/
theorem settles (h : Lockstep a b s t) (ha : step a = .next s) (hb : step b = .next t) :
    (∀ r, step a = .refused r → step b = .refused r) ∧
    ∀ s', step a = .next s' → ∃ t' ev, step b = .next t' ∧ SameControl s' t' ∧
      Claims.Happened a s' ev ∧ Claims.Happened b t' ev := by
  obtain ⟨control, ev, hsev, htev⟩ := h
  refine ⟨fun r hr => by simp [ha] at hr, fun s' hs => ?_⟩
  cases ha.symm.trans hs
  exact ⟨t, ev, hb, control, hsev, htev⟩

end Lockstep

/-! ### The hidden registers -/

/-- `s` with other values in CNT, OP and ARG. -/
def replaceHidden (c : Count) (o : BitVec 3) (a : Byte) (s : State) : State := { s with cnt := c, op := o, arg := a }

/-- CNT = `c` and ARG = `a` would not be read before they are written anew, or are what `s` holds: ARG is live until the
command ends, CNT in the poll phases (10_state.md R23). -/
structure Unread (c : Count) (a : Byte) (s : State) : Prop where
  arg : s.ph ≠ .idle → a = s.arg
  cnt : phaseCause s.ph ≠ none → c = s.cnt

section
variable (c : Count) (o : BitVec 3) (a : Byte) (s : State)

theorem leaveFor_replaceHidden (q : Phase) :
    leaveFor q (replaceHidden c o a s) = replaceHidden c o a (leaveFor q s) := by
  cases q <;> rfl

theorem raiseTimeout_replaceHidden (n : Cause) :
    raiseTimeout n (replaceHidden c o a s) = replaceHidden c o a (raiseTimeout n s) := by
  cases n <;> rfl

theorem hostErrWrite_replaceHidden (x : HostInput) :
    hostErrWrite x (replaceHidden c o a s) = replaceHidden c o a (hostErrWrite x s) := by
  unfold hostErrWrite
  split <;> rfl

/-- A poll reads CNT, and neither OP nor ARG. -/
theorem pollStep_replaceHidden (n : Cause) (q : Phase) :
    pollStep n (leaveFor q) (replaceHidden s.cnt o a s) =
      replaceHidden (pollStep n (leaveFor q) s).cnt o a (pollStep n (leaveFor q) s) := by
  rcases pollStep_cases n (leaveFor q) s with ⟨hc, h⟩ | ⟨hc, hflag, h⟩ | ⟨hc, hflag, h⟩
  · rw [h, pollStep_timeout n _ (replaceHidden s.cnt o a s) hc, raiseTimeout_replaceHidden, raiseTimeout_cnt]
  · rw [h, pollStep_ok n _ (replaceHidden s.cnt o a s) hc hflag, leaveFor_cnt]
    exact leaveFor_replaceHidden s.cnt o a (regRead .CR s).2 q
  · rw [h, pollStep_again n _ (replaceHidden s.cnt o a s) hc hflag]
    rfl

end

/-- A row's step from a state with the unread values replaced is the row's step, with values replaced that are unread. -/
theorem PhaseRow.step_replaceHidden {s : State} {row : PhaseRow} (hrow : phaseRow s.ph = some row) {c : Count} {a : Byte}
    (hu : Unread c a s) (o : BitVec 3) :
    ∃ c', row.step (replaceHidden c o a s) = replaceHidden c' o a (row.step s) ∧ Unread c' a (row.step s) := by
  have ha : a = s.arg := hu.arg fun h => by simp [h, phaseRow] at hrow
  obtain ⟨-, hkeep, -, -⟩ := row.step_frame s
  have harg : a = (row.step s).arg := ha.trans hkeep.symm
  cases row with
  | write r v q =>
    refine ⟨c, ?_, fun _ => harg, fun h => absurd ?_ h⟩
    · subst ha
      exact leaveFor_replaceHidden c o s.arg (regWrite r (v s.cfg.raw s.arg) s) q
    · simpa [step] using phaseCause_next_of_write hrow
  | trigger m q => exact ⟨toBudgetCount s.cfg.raw, rfl, fun _ => harg, fun _ => rfl⟩
  | poll n q =>
    have hc : c = s.cnt := hu.cnt (by simp [phaseCause_of_phaseRow hrow])
    subst hc
    exact ⟨_, pollStep_replaceHidden o a s n q, fun _ => harg, fun _ => rfl⟩
  | readData => exact ⟨c, rfl, fun _ => harg, fun h => absurd rfl h⟩

theorem step_replaceHidden {s t : State} {c : Count} {a : Byte} (hu : Unread c a s) (o : BitVec 3)
    (hst : step s = .next t) :
    ∃ c' o' a', step (replaceHidden c o a s) = .next (replaceHidden c' o' a' t) ∧ Unread c' a' t := by
  rcases stepsBy_cases (hostNow s) s.ph with
    ⟨hf, -⟩ | ⟨hf, hidle⟩ | ⟨i, hf, -⟩ | ⟨row, hf, hrow⟩ | ⟨r, hrefused⟩
  · obtain rfl := hf.eq_of_step hst
    exact ⟨0#17, 0#3, 0#8, hf (replaceHidden c o a s) rfl rfl, fun _ => rfl, fun _ => rfl⟩
  · obtain rfl := hf.eq_of_step hst
    refine ⟨c, o, a, (hf (replaceHidden c o a s) rfl rfl).trans (congrArg _ ?_), ⟨?_, ?_⟩⟩
    · exact hostErrWrite_replaceHidden c o a (beginStep s) _
    · simp [hidle]
    · simp [hidle, phaseCause]
  · obtain rfl := hf.eq_of_step hst
    refine ⟨c, opField (encode i), argField (encode i), (hf (replaceHidden c o a s) rfl rfl).trans (congrArg _ ?_),
      ⟨fun _ => rfl, ?_⟩⟩
    · exact congrArg (accept (encode i)) (hostErrWrite_replaceHidden c o a (beginStep s) _)
    · simp [phaseCause_firstPhase]
  · obtain rfl := hf.eq_of_step hst
    have hb : Unread c a (beginStep s) := ⟨hu.arg, hu.cnt⟩
    obtain ⟨c', hstep, hu'⟩ := PhaseRow.step_replaceHidden (s := beginStep s) hrow hb o
    exact ⟨c', o, a, (hf (replaceHidden c o a s) rfl rfl).trans (congrArg _ hstep), hu'⟩
  · cases (hrefused s rfl rfl).symm.trans hst

theorem run_replaceHidden (n : Nat) {s t : State} {c : Count} {o : BitVec 3} {a : Byte} (hu : Unread c a s)
    (hrun : Sys2Proof.core.run n s = .next t) :
    ∃ c' o' a', Sys2Proof.core.run n (replaceHidden c o a s) = .next (replaceHidden c' o' a' t) := by
  induction n generalizing s c o a with
  | zero =>
    cases hrun
    exact ⟨c, o, a, rfl⟩
  | succ n ih =>
    obtain ⟨u, hstep, hrest⟩ := (run_succ_eq_next_iff Sys2Proof.core n s t).mp hrun
    obtain ⟨c₁, o₁, a₁, hstep', hu'⟩ := step_replaceHidden hu o hstep
    obtain ⟨c', o', a', hrest'⟩ := ih hu' hrest
    exact ⟨c', o', a', (run_succ_eq_next_iff Sys2Proof.core n _ _).mpr ⟨_, hstep', hrest'⟩⟩

/-! ### RES over a whole command -/

/-- A poll leaves CR reads behind and keeps RES. -/
theorem poll_frame (s : State) :
    (poll s).2.res = s.res ∧ ∃ rs : List Byte, (poll s).2.events = s.events ++ rs.map (.read .CR) := by
  obtain ⟨rs, h, -, -⟩ := pollLoop_spec s.cnt.toNat s rfl
  rw [poll, h]
  exact ⟨rfl, rs, rfl⟩

/-- The poll of a command's pseudocode: what follows on `ok`, and the cause that is raised on `timeout`. -/
def afterPoll (n : Cause) (ok : State → State) (s : State) : State :=
  match poll s with
  | (false, t) => raiseTimeout n t
  | (true, t) => ok t

theorem afterPoll_cases (n : Cause) (ok : State → State) (s : State) :
    afterPoll n ok s = raiseTimeout n (poll s).2 ∨ afterPoll n ok s = ok (poll s).2 := by
  unfold afterPoll
  rcases poll s with ⟨_ | _, t⟩
  · exact .inl rfl
  · exact .inr rfl

theorem addressBody_eq (s : State) :
    addressBody s = afterPoll .address complete (trigger (cwXfer s.cfg.raw) (regWrite .DR s.arg s)) := rfl

theorem startBody_eq (s : State) :
    startBody s = afterPoll .start addressBody (trigger (cwStart s.cfg.raw) s) := rfl

theorem byteBody_eq (s : State) :
    byteBody s = afterPoll .byte complete (trigger (cwXfer s.cfg.raw) (regWrite .DR s.arg s)) := rfl

/-- The two reads differ in the trigger byte and in the cause (44_read.md R66, R67). -/
theorem commandBody_of_read {i : Instr} (h : isReadCommand i = true) :
    ∃ (n : Cause) (m : Config → Byte), causeIsRead n = true ∧
      ∀ s, commandBody i s = afterPoll n readData (trigger (m s.cfg.raw) s) := by
  cases i with
  | readAck x => exact ⟨.readAck, cwXferAck, rfl, fun _ => rfl⟩
  | readNack x => exact ⟨.readNack, cwXfer, rfl, fun _ => rfl⟩
  | _ => cases h

/-- RES is the same in `s` and `t`, and the events of `t` are those of `s` and more. -/
structure KeepsRes (s t : State) : Prop where
  res : t.res = s.res
  events : s.events <+: t.events

theorem KeepsRes.trans {s t u : State} (h : KeepsRes s t) (h' : KeepsRes t u) : KeepsRes s u :=
  ⟨h'.res.trans h.res, h.events.trans h'.events⟩

theorem poll_keepsRes (s : State) : KeepsRes s (poll s).2 := by
  obtain ⟨hres, rs, hev⟩ := poll_frame s
  exact ⟨hres, hev ▸ List.prefix_append _ _⟩

theorem complete_keepsRes (s : State) : KeepsRes s (complete s) := ⟨rfl, List.prefix_append _ _⟩

theorem regWrite_keepsRes (r : PReg) (v : Byte) (s : State) : KeepsRes s (regWrite r v s) :=
  ⟨rfl, List.prefix_append _ _⟩

theorem trigger_keepsRes (m : Byte) (s : State) : KeepsRes s (trigger m s) := ⟨rfl, List.prefix_append _ _⟩

theorem accept_keepsRes (cw : CmdWord) (s : State) : KeepsRes s (accept cw s) := ⟨rfl, List.prefix_append _ _⟩

theorem raiseTimeout_keepsRes {n : Cause} (hn : causeIsRead n = false) (s : State) : KeepsRes s (raiseTimeout n s) :=
  ⟨by simp [hn], by simp⟩

theorem afterPoll_keepsRes {n : Cause} (hn : causeIsRead n = false) {ok : State → State}
    (hok : ∀ t, KeepsRes t (ok t)) (s : State) : KeepsRes s (afterPoll n ok s) := by
  rcases afterPoll_cases n ok s with h | h <;> rw [h]
  · exact (poll_keepsRes s).trans (raiseTimeout_keepsRes hn _)
  · exact (poll_keepsRes s).trans (hok _)

theorem initBody_keepsRes (s : State) : KeepsRes s (initBody s) :=
  (((regWrite_keepsRes ..).trans (regWrite_keepsRes ..)).trans (regWrite_keepsRes ..)).trans (complete_keepsRes _)

theorem stopBody_keepsRes (s : State) : KeepsRes s (stopBody s) :=
  (regWrite_keepsRes ..).trans (complete_keepsRes _)

theorem byteBody_keepsRes (s : State) : KeepsRes s (byteBody s) := by
  rw [byteBody_eq]
  exact ((regWrite_keepsRes ..).trans (trigger_keepsRes ..)).trans (afterPoll_keepsRes rfl complete_keepsRes _)

theorem addressBody_keepsRes (s : State) : KeepsRes s (addressBody s) := by
  rw [addressBody_eq]
  exact ((regWrite_keepsRes ..).trans (trigger_keepsRes ..)).trans (afterPoll_keepsRes rfl complete_keepsRes _)

theorem startBody_keepsRes (s : State) : KeepsRes s (startBody s) := by
  rw [startBody_eq]
  exact (trigger_keepsRes ..).trans (afterPoll_keepsRes rfl addressBody_keepsRes _)

/-- Only the two reads write RES (10_state.md R19). -/
theorem commandEffect_keepsRes {i : Instr} (h : isReadCommand i = false) (s : State) :
    KeepsRes s (commandEffect i s) := by
  refine (accept_keepsRes (encode i) s).trans ?_
  cases i with
  | init _ | txStart _ => exact initBody_keepsRes _
  | start _ | txAddress _ => exact startBody_keepsRes _
  | stop _ | txStop _ => exact stopBody_keepsRes _
  | byte _ | txByte _ => exact byteBody_keepsRes _
  | readAck _ | readNack _ => cases h

/-- A read's poll and what follows it: CR reads, then either the timeout, with RES 0x00, or the one DR read, with RES
its answer (44_read.md R66, R67). -/
theorem afterPoll_readData {n : Cause} (hn : causeIsRead n = true) (s : State) : ∃ rs : List Byte,
    ((afterPoll n readData s).res = 0x00#8 ∧ Claims.Happened s (afterPoll n readData s)
      (rs.map (Event.read .CR) ++ [Event.timeout n, Event.done (some 0x00#8)])) ∨
    ∃ v, (afterPoll n readData s).res = v ∧ Claims.Happened s (afterPoll n readData s)
      (rs.map (Event.read .CR) ++ [Event.read .DR v, Event.done (some v)]) := by
  obtain ⟨-, rs, hev⟩ := poll_frame s
  refine ⟨rs, ?_⟩
  rcases afterPoll_cases n readData s with h | h <;> rw [h]
  · exact .inl (by simp [Claims.Happened, hn, hev])
  · exact .inr ⟨_, rfl, by simp [Claims.Happened, hev]⟩

/-- The events of a whole read command, and RES after it. -/
theorem commandEffect_of_read {i : Instr} (h : isReadCommand i = true) (s : State) : ∃ (m : Byte) (rs : List Byte),
    (∃ n, (commandEffect i s).res = 0x00#8 ∧ Claims.Happened s (commandEffect i s)
      (Event.accept (encode i) :: Event.write .CR m ::
        (rs.map (Event.read .CR) ++ [Event.timeout n, Event.done (some 0x00#8)]))) ∨
    ∃ v, (commandEffect i s).res = v ∧ Claims.Happened s (commandEffect i s)
      (Event.accept (encode i) :: Event.write .CR m ::
        (rs.map (Event.read .CR) ++ [Event.read .DR v, Event.done (some v)])) := by
  obtain ⟨n, m, hn, hbody⟩ := commandBody_of_read h
  have heffect : commandEffect i s = afterPoll n readData (trigger (m s.cfg.raw) (accept (encode i) s)) := hbody _
  rw [heffect]
  obtain ⟨rs, ⟨hres, hev⟩ | ⟨v, hres, hev⟩⟩ := afterPoll_readData hn (trigger (m s.cfg.raw) (accept (encode i) s))
  · exact ⟨_, rs, .inl ⟨n, hres, by simpa [Claims.Happened] using hev⟩⟩
  · exact ⟨_, rs, .inr ⟨v, hres, by simpa [Claims.Happened] using hev⟩⟩

end Sys2Proof.Machine

namespace Sys2Proof.Proofs

open Sys2Proof Sys2Proof.Machine

/-- Settles O10: each clause is the value of a field of the reset state, or of a port that it drives. -/
theorem resetStateHoldsTheSpecValues : Obligations.ResetStateHoldsTheSpecValues := by
  refine ⟨rfl, rfl, rfl, rfl, rfl, rfl, ?_⟩
  decide

/-- Settles O12, which the model's own tests already prove as the witness of O13. -/
theorem invariantHoldsAtReset : Obligations.InvariantHoldsAtReset := Tests.reset_inv

/-- Settles O13: every kind of step keeps the invariant. -/
theorem stepKeepsTheInvariant : Obligations.StepKeepsTheInvariant := by
  intro s t hs hst
  have hb := hs.beginStep
  rcases stepsBy_cases (hostNow s) s.ph with
    ⟨hf, -⟩ | ⟨hf, -⟩ | ⟨i, hf, -⟩ | ⟨row, hf, hrow⟩ | ⟨r, hrefused⟩
  · exact hf.eq_of_step hst ▸ hb.applyReset
  · exact hf.eq_of_step hst ▸ hb.hostErrWrite _
  · exact hf.eq_of_step hst ▸ (hb.hostErrWrite _).accept i
  · exact hf.eq_of_step hst ▸ hb.phaseRow_step hrow
  · cases (hrefused s rfl rfl).symm.trans hst

/-- Settles O29: the host's write needs IDLE and a write strobe, and every other change only sets a bit. -/
theorem errIsStickyBetweenHostWrites : Obligations.ErrIsStickyBetweenHostWrites := by
  intro s t hrst hst
  have hcases := step_err_cases hrst hst
  refine ⟨hcases, fun hnoWrite => ?_⟩
  rcases hcases with herr | ⟨n, -, -, herr⟩ | ⟨hidle, hwr, -⟩
  · simp [herr]
  · rw [herr, BitVec.and_comm]
    exact and_errSet s.err n
  · simp [hidle, hwr] at hnoWrite

/-- Settles O48: every kind of step keeps two states in lockstep, and the ports and PH settle which kind it is. -/
theorem errOpResAndHistoryNeverSteerAStep : Obligations.ErrOpResAndHistoryNeverSteerAStep := by
  intro s t h
  have hb : Lockstep s t (beginStep s) (beginStep t) := .beginStep h
  have hnow : hostNow t = hostNow s := by simp [hostNow, h.host]
  rcases stepsBy_cases (hostNow s) s.ph with
    ⟨hf, -⟩ | ⟨hf, -⟩ | ⟨i, hf, -⟩ | ⟨row, hf, -⟩ | ⟨r, hrefused⟩
  · exact hb.applyReset.settles (hf s rfl rfl) (hf t hnow h.ph)
  · exact (hb.hostErrWrite _).settles (hf s rfl rfl) (hf t hnow h.ph)
  · exact ((hb.hostErrWrite _).accept _).settles (hf s rfl rfl) (hf t hnow h.ph)
  · exact (hb.phaseRow_step row).settles (hf s rfl rfl) (hf t hnow h.ph)
  · rw [hrefused s rfl rfl, hrefused t hnow h.ph]
    exact ⟨fun _ => id, fun _ hs => nomatch hs⟩

/-- Settles O49, by induction on the number of steps: what a step hides again is not read by the next one. -/
theorem hiddenRegistersAreNeverObserved : Obligations.HiddenRegistersAreNeverObserved := by
  intro n s t c o a hidle hrun
  have hunread : Unread c a s := ⟨fun h => absurd hidle h, fun h => absurd (by simp [hidle, phaseCause]) h⟩
  exact run_replaceHidden n hunread hrun

/-- Settles O43: only the two reads touch RES, and each is a trigger, a poll, and then the DR read or the timeout. -/
theorem resultIsTheByteReadOrZero : Obligations.ResultIsTheByteReadOrZero := by
  intro i s
  cases hread : isReadCommand i with
  | false =>
    obtain ⟨hres, ev, hev⟩ := commandEffect_keepsRes hread s
    exact ⟨ev, hev.symm, fun _ => hres, nofun⟩
  | true =>
    obtain ⟨m, rs, ⟨n, hres, hev⟩ | ⟨v, hres, hev⟩⟩ := commandEffect_of_read hread s
    · exact ⟨_, hev, nofun, fun _ => .inr ⟨by simp [accessReg], hres, n, by simp⟩⟩
    · exact ⟨_, hev, nofun, fun _ => .inl ⟨v, by simp [accessReg], hres, by simp⟩⟩

end Sys2Proof.Proofs
end

section
/-! SUPPORT. The family of 20_memory.md: the five control-register writes (R29), the access matrix (R35), what of a CR read
matters (R30), and the polling commands' traces with a dead and with a responsive controller (R42, R43). -/

namespace Sys2Proof.Machine

/-! ### The bits of the control-register writes -/

/-- Bit `k` of the byte is 1. -/
def HasBit (b : Byte) (k : Fin 8) : Prop := b.getLsbD k.val = true

theorem hasBit_or (x y : Byte) (k : Fin 8) : HasBit (x ||| y) k ↔ HasBit x k ∨ HasBit y k := by
  simp only [HasBit, BitVec.getLsbD_or, Bool.or_eq_true]

/-- A mask `M_x` has the bit of its position and no other (00_scope.md R10). -/
theorem hasBit_mask (p k : Fin 8) : HasBit (1#8 <<< p.val) k ↔ k = p := by
  revert p k; unfold HasBit; decide

section
variable (c : Config) (k : Fin 8)

@[simp] theorem hasBit_cwEnable : HasBit (cwEnable c) k ↔ k = c.enB := hasBit_mask c.enB k

@[simp] theorem hasBit_cwStart : HasBit (cwStart c) k ↔ k = c.intB ∨ k = c.staB ∨ k = c.enB := by
  simp only [cwStart, mInt, mSta, mEn, hasBit_or, hasBit_mask, or_assoc]

@[simp] theorem hasBit_cwXfer : HasBit (cwXfer c) k ↔ k = c.intB ∨ k = c.enB := by
  simp only [cwXfer, mInt, mEn, hasBit_or, hasBit_mask]

@[simp] theorem hasBit_cwXferAck : HasBit (cwXferAck c) k ↔ k = c.intB ∨ k = c.eaB ∨ k = c.enB := by
  simp only [cwXferAck, mInt, mEa, mEn, hasBit_or, hasBit_mask, or_assoc]

@[simp] theorem hasBit_cwStop : HasBit (cwStop c) k ↔ k = c.intB ∨ k = c.stoB ∨ k = c.enB := by
  simp only [cwStop, mInt, mSto, mEn, hasBit_or, hasBit_mask, or_assoc]

end

/-- A byte that has a bit which none of `l` has is not among `l`. -/
theorem notMem_of_hasBit {b : Byte} {l : List Byte} (k : Fin 8) (hb : HasBit b k) (hl : ∀ x ∈ l, ¬ HasBit x k) : b ∉ l :=
  fun hmem => hl b hmem hb

/-- CW_ENABLE alone lacks bit INT_B, and CW_START, CW_XFER_ACK and CW_STOP each have a bit of their own. -/
theorem controlWrites_nodup (c : ValidConfig) :
    [cwEnable c.raw, cwStart c.raw, cwXfer c.raw, cwXferAck c.raw, cwStop c.raw].Nodup := by
  have hpos := c.positions_nodup
  have henable : cwEnable c.raw ∉ [cwStart c.raw, cwXfer c.raw, cwXferAck c.raw, cwStop c.raw] := by
    have hall : ∀ x ∈ [cwStart c.raw, cwXfer c.raw, cwXferAck c.raw, cwStop c.raw], HasBit x c.raw.intB := by simp
    have hnot : ¬ HasBit (cwEnable c.raw) c.raw.intB := by grind [hasBit_cwEnable]
    exact fun hmem => hnot (hall _ hmem)
  have hstart : cwStart c.raw ∉ [cwXfer c.raw, cwXferAck c.raw, cwStop c.raw] :=
    notMem_of_hasBit c.raw.staB (by simp) (by grind [hasBit_cwXfer, hasBit_cwXferAck, hasBit_cwStop])
  have hack : cwXferAck c.raw ∉ [cwXfer c.raw, cwStop c.raw] :=
    notMem_of_hasBit c.raw.eaB (by simp) (by grind [hasBit_cwXfer, hasBit_cwStop])
  have hstop : cwStop c.raw ∉ [cwXfer c.raw] :=
    notMem_of_hasBit c.raw.stoB (by simp) (by grind [hasBit_cwXfer])
  grind

/-! ### The accesses of a step -/

/-- The access an event is: register, and `true` for a write, as the matrix lists it. -/
def accessOf : Event → Option (PReg × Bool)
  | .write r _ => some (r, true)
  | .read r _ => some (r, false)
  | _ => none

/-- The access of a row (20_memory.md R35). -/
def PhaseRow.access : PhaseRow → PReg × Bool
  | .write r _ _ => (r, true)
  | .trigger _ _ => (.CR, true)
  | .poll _ _ => (.CR, false)
  | .readData => (.DR, false)

theorem matrix_of_phaseRow {p : Phase} {row : PhaseRow} (h : phaseRow p = some row) :
    Claims.matrix p = [row.access] := by
  cases p <;> cases h <;> rfl

theorem AR_notMem_matrix (p : Phase) (b : Bool) : (PReg.AR, b) ∉ Claims.matrix p := by
  cases p <;> simp [Claims.matrix]

/-- CR is read in the poll phases alone. -/
theorem phaseCause_of_mem_matrix {p : Phase} (h : (PReg.CR, false) ∈ Claims.matrix p) :
    ∃ n, phaseCause p = some n := by
  cases p <;> simp [Claims.matrix, phaseCause] at h ⊢

/-- `t` is reached from `s` by events whose accesses are all in `l`. -/
def AccessesIn (l : List (PReg × Bool)) (s t : State) : Prop :=
  ∃ ev, Claims.Happened s t ev ∧ ∀ e ∈ ev, ∀ a, accessOf e = some a → a ∈ l

namespace AccessesIn

variable {l : List (PReg × Bool)}

theorem trans {s t u : State} (h : AccessesIn l s t) (h' : AccessesIn l t u) : AccessesIn l s u := by
  obtain ⟨ev, hev, hin⟩ := h
  obtain ⟨ev', hev', hin'⟩ := h'
  refine ⟨ev ++ ev', by simp_all [Claims.Happened], fun e he => ?_⟩
  exact (List.mem_append.mp he).elim (hin e) (hin' e)

/-- One more event. -/
theorem of_event {s t : State} {e : Event} (h : t.events = s.events ++ [e]) (he : ∀ a, accessOf e = some a → a ∈ l) :
    AccessesIn l s t :=
  ⟨[e], h, by simpa using he⟩

theorem leaveFor (q : Phase) (s : State) : AccessesIn l s (leaveFor q s) :=
  ⟨if q = .idle then [.done none] else [], leaveFor_events q s, by split <;> simp [accessOf]⟩

theorem raiseTimeout (n : Cause) (s : State) : AccessesIn l s (raiseTimeout n s) :=
  ⟨_, raiseTimeout_events n s, by simp [accessOf]⟩

theorem hostErrWrite (x : HostInput) (s : State) : AccessesIn l s (hostErrWrite x s) :=
  ⟨_, hostErrWrite_events x s, by split <;> simp [accessOf]⟩

theorem regRead {r : PReg} (h : (r, false) ∈ l) (s : State) : AccessesIn l s (regRead r s).2 :=
  of_event rfl (by simpa [accessOf] using h)

end AccessesIn

/-- The accesses of a row's step are the row's. -/
theorem PhaseRow.step_accessesIn (row : PhaseRow) (s : State) : AccessesIn [row.access] s (row.step s) := by
  cases row with
  | write r v q =>
    have hwrite : AccessesIn [(r, true)] s (regWrite r (v s.cfg.raw s.arg) s) := .of_event rfl (by simp [accessOf])
    exact hwrite.trans (.leaveFor q _)
  | trigger m q => exact .of_event rfl (by simp [accessOf, access])
  | poll n q =>
    have hread : AccessesIn [(.CR, false)] s (regRead .CR s).2 := .regRead (by simp) s
    rcases pollStep_cases n (leaveFor q) s with ⟨-, h⟩ | ⟨-, -, h⟩ | ⟨-, -, h⟩ <;> rw [step, h]
    · exact .raiseTimeout n s
    · exact hread.trans (.leaveFor q _)
    · exact hread
  | readData =>
    have hread : AccessesIn [(.DR, false)] s (regRead .DR s).2 := .regRead (by simp) s
    exact hread.trans (.of_event rfl (by simp [accessOf]))

/-- 20_memory.md R35, for every step. -/
theorem step_accessesIn {s t : State} (hst : step s = .next t) : AccessesIn (Claims.matrix s.ph) s t := by
  rcases stepsBy_cases (hostNow s) s.ph with
    ⟨hf, -⟩ | ⟨hf, -⟩ | ⟨i, hf, -⟩ | ⟨row, hf, hrow⟩ | ⟨r, hrefused⟩
  · exact hf.eq_of_step hst ▸ .of_event rfl (by simp [accessOf])
  · exact hf.eq_of_step hst ▸ .hostErrWrite _ (beginStep s)
  · exact hf.eq_of_step hst ▸ (AccessesIn.hostErrWrite _ (beginStep s)).trans (.of_event rfl (by simp [accessOf]))
  · rw [matrix_of_phaseRow hrow, hf.eq_of_step hst]
    exact row.step_accessesIn (beginStep s)
  · cases (hrefused s rfl rfl).symm.trans hst

/-! ### What of a CR read matters -/

theorem phaseRow_of_phaseCause {p : Phase} {n : Cause} (h : phaseCause p = some n) :
    ∃ q, phaseRow p = some (.poll n q) := by
  cases p <;> cases h <;> exact ⟨_, rfl⟩

/-- With no reset, a phase that has a row does the row's step, whatever else the host drives. -/
theorem stepsBy_phaseRow {h : HostInput} {p : Phase} {row : PhaseRow} (hrst : h.rst = false)
    (hrow : phaseRow p = some row) : StepsBy h p row.step := by
  intro s hh hp
  obtain ⟨i, hi, hstep⟩ := inFlight_of_phaseRow hrow s.arg
  simp [step, cycle, hh, hrst, hp, hi, exec_eq_next, hstep]

/-- Leaving a phase does not look at the events. -/
theorem leaveFor_with_events (q : Phase) (s : State) (es : List Event) :
    leaveFor q { s with events := es } =
      { leaveFor q s with events := es ++ if q = .idle then [Event.done none] else [] } := by
  cases q <;> simp [leaveFor, complete, goto, emit]

/-- A poll step that reads: all the answers with the same bit INT_B lead to one state `w`, but for the byte recorded
(20_memory.md R30). -/
theorem pollStep_free (n : Cause) (q : Phase) {s : State} (hc : s.cnt ≠ 0#17) (rest : List Byte) (flag : Bool) :
    ∃ (w : State) (ev : List Event), ∀ v, flagSet s.cfg.raw v = flag →
      pollStep n (leaveFor q) { s with env := .free (v :: rest) } =
        { w with events := s.events ++ .read .CR v :: ev } := by
  cases flag with
  | true =>
    refine ⟨leaveFor q { s with env := .free rest }, if q = .idle then [Event.done none] else [], fun v hv => ?_⟩
    refine (pollStep_ok n (leaveFor q) { s with env := .free (v :: rest) } hc hv).trans ?_
    refine (leaveFor_with_events q { s with env := .free rest } (s.events ++ [.read .CR v])).trans ?_
    simp
  | false =>
    exact ⟨{ s with env := .free rest, cnt := s.cnt - 1#17 }, [], fun v hv =>
      pollStep_again n (leaveFor q) { s with env := .free (v :: rest) } hc hv⟩

/-! ### Transfer trigger events -/

theorem triggerCount_append (c : Config) (es fs : List Event) :
    triggerCount c (es ++ fs) = triggerCount c es + triggerCount c fs := by
  simp [triggerCount]

/-- `t` is reached from `s` by events that hold `k` transfer trigger events and no timeout of START's first poll. -/
structure MakesTriggers (k : Nat) (s t : State) : Prop where
  cfg : t.cfg = s.cfg
  events : ∃ ev, Claims.Happened s t ev ∧ triggerCount s.cfg.raw ev = k ∧ Event.timeout .start ∉ ev

namespace MakesTriggers

theorem trans {j k : Nat} {s t u : State} (h : MakesTriggers j s t) (h' : MakesTriggers k t u) :
    MakesTriggers (j + k) s u := by
  obtain ⟨hcfg, ev, hev, hcount, hno⟩ := h
  obtain ⟨hcfg', ev', hev', hcount', hno'⟩ := h'
  refine ⟨hcfg'.trans hcfg, ev ++ ev', by simp_all [Claims.Happened], ?_, by simp [hno, hno']⟩
  rw [triggerCount_append, hcount, ← hcfg, hcount']

theorem accept (cw : CmdWord) (s : State) : MakesTriggers 0 s (accept cw s) :=
  ⟨rfl, _, rfl, by simp [triggerCount, isTrigger], by simp⟩

theorem complete (s : State) : MakesTriggers 0 s (complete s) :=
  ⟨rfl, _, rfl, by simp [triggerCount, isTrigger], by simp⟩

theorem regWrite {r : PReg} {v : Byte} {s : State} (h : isTrigger s.cfg.raw (.write r v) = false) :
    MakesTriggers 0 s (regWrite r v s) :=
  ⟨rfl, _, rfl, by simp [triggerCount, h], by simp⟩

theorem trigger {m : Byte} {s : State} (h : isTrigger s.cfg.raw (.write .CR m) = true) :
    MakesTriggers 1 s (trigger m s) :=
  ⟨rfl, _, rfl, by simp [triggerCount, h], by simp⟩

theorem raiseTimeout {n : Cause} (hn : n ≠ .start) (s : State) : MakesTriggers 0 s (raiseTimeout n s) :=
  ⟨by simp, _, raiseTimeout_events n s, by simp [triggerCount, isTrigger], by simp [hn.symm]⟩

theorem readData (s : State) : MakesTriggers 0 s (readData s) :=
  ⟨rfl, [.read .DR (regRead .DR s).1, .done (some (regRead .DR s).1)], by simp [Claims.Happened],
    by simp [triggerCount, isTrigger], by simp⟩

/-- A poll only reads. -/
theorem poll (s : State) : MakesTriggers 0 s (poll s).2 := by
  obtain ⟨rs, h, -, -⟩ := pollLoop_spec s.cnt.toNat s rfl
  rw [Machine.poll, h]
  exact ⟨rfl, rs.map (.read .CR), rfl, by simp [triggerCount, isTrigger], by simp⟩

theorem afterPoll {n : Cause} (hn : n ≠ .start) {ok : State → State} (hok : ∀ t, MakesTriggers 0 t (ok t)) (s : State) :
    MakesTriggers 0 s (afterPoll n ok s) := by
  rcases afterPoll_cases n ok s with h | h <;> rw [h]
  · exact (poll s).trans (raiseTimeout hn _)
  · exact (poll s).trans (hok _)

end MakesTriggers

/-! Which control-register writes are transfer trigger events (20_memory.md R43). -/

theorem isTrigger_cwStart (c : Config) : isTrigger c (.write .CR (cwStart c)) = true := by simp [isTrigger]
theorem isTrigger_cwXfer (c : Config) : isTrigger c (.write .CR (cwXfer c)) = true := by simp [isTrigger]
theorem isTrigger_cwXferAck (c : Config) : isTrigger c (.write .CR (cwXferAck c)) = true := by simp [isTrigger]

theorem isTrigger_cwEnable (c : ValidConfig) : isTrigger c.raw (.write .CR (cwEnable c.raw)) = false := by
  have h := controlWrites_nodup c
  simp only [isTrigger]
  grind

theorem isTrigger_cwStop (c : ValidConfig) : isTrigger c.raw (.write .CR (cwStop c.raw)) = false := by
  have h := controlWrites_nodup c
  simp only [isTrigger]
  grind

/-- BYTE, and the second half of START: the data write, the trigger and its poll (42_start_stop.md R63, 43_byte.md R65). -/
def sendBody (n : Cause) (s : State) : State :=
  afterPoll n complete (trigger (cwXfer s.cfg.raw) (regWrite .DR s.arg s))

theorem byteBody_eq_sendBody (s : State) : byteBody s = sendBody .byte s := byteBody_eq s

theorem addressBody_eq_sendBody (s : State) : addressBody s = sendBody .address s := addressBody_eq s

/-! The polling commands, each as its trigger and what follows. -/

/-- `argField_mkWord` with the word written out, as the spec's vectors have it. -/
theorem argField_append (op : BitVec 3) (x : Byte) : argField (op ++ x) = x := argField_mkWord op x

section
variable (x : Byte) (s : State)

theorem commandEffect_start : commandEffect (.start x) s = startBody (accept (encode (.start x)) s) := rfl

theorem commandEffect_byte : commandEffect (.byte x) s = sendBody .byte (accept (encode (.byte x)) s) :=
  byteBody_eq_sendBody _

theorem commandEffect_readAck : commandEffect (.readAck x) s =
    afterPoll .readAck readData (trigger (cwXferAck s.cfg.raw) (accept (encode (.readAck x)) s)) := rfl

theorem commandEffect_readNack : commandEffect (.readNack x) s =
    afterPoll .readNack readData (trigger (cwXfer s.cfg.raw) (accept (encode (.readNack x)) s)) := rfl

end

/-! The trigger events of each command's pseudocode. -/

section
variable (s : State)

theorem initBody_makesTriggers : MakesTriggers 0 s (initBody s) :=
  (((MakesTriggers.regWrite rfl).trans (.regWrite rfl)).trans (.regWrite (isTrigger_cwEnable s.cfg))).trans (.complete _)

theorem stopBody_makesTriggers : MakesTriggers 0 s (stopBody s) :=
  (MakesTriggers.regWrite (isTrigger_cwStop s.cfg)).trans (.complete _)

theorem sendBody_makesTriggers {n : Cause} (hn : n ≠ .start) : MakesTriggers 1 s (sendBody n s) :=
  ((MakesTriggers.regWrite rfl).trans (.trigger (isTrigger_cwXfer s.cfg.raw))).trans (.afterPoll hn .complete _)

theorem readBody_makesTriggers {n : Cause} (hn : n ≠ .start) {m : Byte} (hm : isTrigger s.cfg.raw (.write .CR m) = true) :
    MakesTriggers 1 s (afterPoll n readData (trigger m s)) :=
  (MakesTriggers.trigger hm).trans (.afterPoll hn .readData _)

/-- START ends with the timeout of its first poll after one trigger, or goes on and makes a second one
(42_start_stop.md R63). -/
theorem startBody_triggers :
    MakesTriggers 2 s (startBody s) ∨ ∃ t, MakesTriggers 1 s t ∧ startBody s = raiseTimeout .start t := by
  have hpoll := (MakesTriggers.trigger (isTrigger_cwStart s.cfg.raw)).trans (.poll (trigger (cwStart s.cfg.raw) s))
  rw [startBody_eq]
  rcases afterPoll_cases .start addressBody (trigger (cwStart s.cfg.raw) s) with h | h
  · exact .inr ⟨_, hpoll, h⟩
  · rw [h, addressBody_eq_sendBody]
    exact .inl (hpoll.trans (sendBody_makesTriggers _ (by decide)))

end

/-- Trigger events of a whole START (42_start_stop.md R63). -/
theorem startEffect_triggers (s : State) (x : Byte) : ∃ ev, Claims.Happened s (commandEffect (.start x) s) ev ∧
    triggerCount s.cfg.raw ev = if Event.timeout .start ∈ ev then 1 else 2 := by
  have haccept := MakesTriggers.accept (encode (.start x)) s
  rw [commandEffect_start]
  rcases startBody_triggers (accept (encode (.start x)) s) with h | ⟨t, h, hbody⟩
  · obtain ⟨-, ev, hev, hcount, hno⟩ := haccept.trans h
    exact ⟨ev, hev, by simp [hno, hcount]⟩
  · obtain ⟨-, ev, hev, hcount, -⟩ := haccept.trans h
    refine ⟨ev ++ [.timeout .start, .done none], ?_, ?_⟩
    · rw [hbody]
      simp_all [Claims.Happened, causeIsRead]
    · have hend : triggerCount s.cfg.raw [.timeout .start, .done none] = 0 := rfl
      simp [triggerCount_append, hcount, hend]

/-! ### The two reference environments -/

/-- With ENV_DEAD a poll reads 0x00 until the budget is used up (20_memory.md R42). -/
theorem pollLoop_dead (k : Nat) {s : State} (h : s.env = .dead) (hk : k = s.cnt.toNat) :
    pollLoop k s = (false, { s with cnt := 0#17, events := s.events ++ List.replicate k (.read .CR 0#8) }) := by
  induction k generalizing s with
  | zero =>
    have hc : s.cnt = 0#17 := BitVec.eq_of_toNat_eq (by simpa using hk.symm)
    simp [pollLoop, ← hc]
  | succ k ih =>
    have hloop : pollLoop (k + 1) s = pollLoop k { (regRead .CR s).2 with cnt := s.cnt - 1#17 } := by
      simp [pollLoop, regRead_dead s h]
    rw [hloop, regRead_dead s h,
      ih (s := { s with cnt := s.cnt - 1#17, events := s.events ++ [.read .CR 0#8] }) h (cnt_pred _ _ hk)]
    simp [List.replicate_succ]

/-- With ENV_DEAD a trigger's poll takes the whole budget and times out. -/
theorem afterPoll_trigger_dead (n : Cause) (ok : State → State) (m : Byte) {s : State} (h : s.env = .dead) :
    afterPoll n ok (trigger m s) = raiseTimeout n { trigger m s with
      cnt := 0#17
      events := s.events ++ .write .CR m :: List.replicate (toBudget s.cfg.raw) (.read .CR 0#8) } := by
  have hloop := pollLoop_dead (toBudget s.cfg.raw) (s := trigger m s) (by simp [h, envTriggered]) (by simp)
  simp [afterPoll, poll, hloop]

/-- With ENV_RESPONSIVE a trigger's poll ends with `ok` at its first read (20_memory.md R42). -/
theorem afterPoll_trigger_responsive (n : Cause) (ok : State → State) (m : Byte) {s : State} {d : List Byte} {seen : Nat}
    (h : s.env = .delay 1 d seen) :
    afterPoll n ok (trigger m s) = ok { trigger m s with
      env := .delay 1 d 1
      events := s.events ++ [.write .CR m, .read .CR (mInt s.cfg.raw)] } := by
  have hread : regRead .CR (trigger m s) = (mInt s.cfg.raw, { trigger m s with
      env := .delay 1 d 1
      events := s.events ++ [.write .CR m, .read .CR (mInt s.cfg.raw)] }) := by
    simp [regRead, emit, envAnswer, envTriggered, trigger, regWrite, h]
  have hbudget := s.cfg.toBudget_ge
  obtain ⟨k, hk⟩ : ∃ k, toBudget s.cfg.raw = k + 1 := Nat.exists_eq_succ_of_ne_zero (by omega)
  simp [afterPoll, poll, hk, pollLoop, hread]

/-- The end of a read command takes the next data byte of ENV_DELAY. -/
theorem readData_delay {s : State} {k seen : Nat} {v : Byte} {d : List Byte} (h : s.env = .delay k (v :: d) seen) :
    readData s = completeRead v { s with env := .delay k d seen, events := s.events ++ [.read .DR v] } := by
  simp [readData, regRead, emit, envAnswer, h]

section
variable {s : State} {d : List Byte} {seen : Nat}

theorem sendBody_responsive_events (n : Cause) (h : s.env = .delay 1 d seen) :
    (sendBody n s).events =
      s.events ++ [.write .DR s.arg, .write .CR (cwXfer s.cfg.raw), .read .CR (mInt s.cfg.raw), .done none] := by
  rw [sendBody, afterPoll_trigger_responsive n complete _ (s := regWrite .DR s.arg s) h]
  simp

theorem sendBody_responsive_err (n : Cause) (h : s.env = .delay 1 d seen) : (sendBody n s).err = s.err := by
  rw [sendBody, afterPoll_trigger_responsive n complete _ (s := regWrite .DR s.arg s) h]
  rfl

theorem startBody_responsive_events (h : s.env = .delay 1 d seen) :
    (startBody s).events = s.events ++ [.write .CR (cwStart s.cfg.raw), .read .CR (mInt s.cfg.raw), .write .DR s.arg,
      .write .CR (cwXfer s.cfg.raw), .read .CR (mInt s.cfg.raw), .done none] := by
  rw [startBody_eq, afterPoll_trigger_responsive .start addressBody _ h, addressBody_eq_sendBody,
    sendBody_responsive_events .address (d := d) (seen := 1) rfl]
  simp

theorem startBody_responsive_err (h : s.env = .delay 1 d seen) : (startBody s).err = s.err := by
  rw [startBody_eq, afterPoll_trigger_responsive .start addressBody _ h, addressBody_eq_sendBody,
    sendBody_responsive_err .address (d := d) (seen := 1) rfl]
  rfl

/-- With ENV_RESPONSIVE a read's trigger and poll are followed by the read of the next data byte. -/
theorem afterPoll_readData_responsive (n : Cause) (m : Byte) {v : Byte} (h : s.env = .delay 1 (v :: d) seen) :
    afterPoll n readData (trigger m s) = completeRead v { trigger m s with
      env := .delay 1 d 1
      events := s.events ++ [.write .CR m, .read .CR (mInt s.cfg.raw), .read .DR v] } := by
  rw [afterPoll_trigger_responsive n readData m h, readData_delay (k := 1) (seen := 1) (v := v) (d := d) rfl]
  simp

end

end Sys2Proof.Machine

namespace Sys2Proof.Proofs

open Sys2Proof Sys2Proof.Machine

/-- Settles O33: any byte `v` is the answer in the environment whose next answer is `v`. -/
theorem regAccessesAreSingleEvents : Obligations.RegAccessesAreSingleEvents := by
  refine ⟨fun r s t v h => ?_, fun r s v => ⟨.free [v], _, regRead_free r _ v [] rfl⟩, fun _ _ _ => rfl⟩
  cases h
  exact congrArg Prod.snd (regRead_eq r s)

/-- Settles O3: a write's bits are those of its masks, and the positions of a valid configuration are distinct. -/
theorem controlWritesAreTheirNamedBits : Obligations.ControlWritesAreTheirNamedBits :=
  fun c k => ⟨hasBit_cwEnable c.raw k, hasBit_cwStart c.raw k, hasBit_cwXfer c.raw k, hasBit_cwXferAck c.raw k,
    hasBit_cwStop c.raw k, controlWrites_nodup c⟩

/-- Settles O34: the matrix lists the one access of each phase's row, and never one to AR. -/
theorem accessesFollowTheMatrix : Obligations.AccessesFollowTheMatrix := by
  intro s t hst
  obtain ⟨ev, hev, hin⟩ := step_accessesIn hst
  refine ⟨ev, hev, fun r v he => hin _ he _ rfl, fun r v he => hin _ he _ rfl, fun e he hreg => ?_⟩
  cases e <;> cases hreg <;> exact AR_notMem_matrix _ _ (hin _ he _ rfl)

/-- Settles O36: the matrix lists a read of CR in the poll phases alone, and a poll step looks at no more of the answer
than the flag. -/
theorem onlyTheCompletionFlagMatters : Obligations.OnlyTheCompletionFlagMatters := by
  refine ⟨fun s t v hst hmem => ?_, fun s t v v' rest n hcause hcnt hrst hflag hst => ?_⟩
  · obtain ⟨ev, hev, hin⟩ := step_accessesIn hst
    rw [hev, List.drop_left] at hmem
    exact phaseCause_of_mem_matrix (hin _ hmem _ rfl)
  · obtain ⟨q, hrow⟩ := phaseRow_of_phaseCause hcause
    have hf := stepsBy_phaseRow hrst hrow
    obtain ⟨w, ev, hw⟩ := pollStep_free n q (s := beginStep s) hcnt rest (flagSet s.cfg.raw v)
    have hsame (x : Byte) (hx : flagSet s.cfg.raw x = flagSet s.cfg.raw v) :
        step { s with env := .free (x :: rest) } = .next { w with events := s.events ++ .read .CR x :: ev } :=
      (hf { s with env := .free (x :: rest) } rfl rfl).trans (congrArg _ (hw x hx))
    cases (hsame v rfl).symm.trans hst
    exact ⟨ev, rfl, hsame v' hflag.symm⟩

/-- Settles O45: the trigger writes are those of the command's phases, and of the five control-register writes CW_ENABLE
and CW_STOP are none. -/
theorem triggerEventsPerCommand : Obligations.TriggerEventsPerCommand := by
  intro i s
  have hbody {k : Nat} (h : MakesTriggers k (accept (encode i) s) (commandEffect i s)) :
      ∃ ev, Claims.Happened s (commandEffect i s) ev ∧ triggerCount s.cfg.raw ev = k := by
    obtain ⟨-, ev, hev, hcount, -⟩ := (MakesTriggers.accept (encode i) s).trans h
    exact ⟨ev, hev, by simpa using hcount⟩
  cases i with
  | init _ | txStart _ => exact hbody (initBody_makesTriggers _)
  | start x => exact startEffect_triggers s x
  | txAddress x => exact startEffect_triggers s x
  | stop _ | txStop _ => exact hbody (stopBody_makesTriggers _)
  | byte _ | txByte _ => exact hbody (sendBody_makesTriggers _ (by decide))
  | readAck _ => exact hbody (readBody_makesTriggers _ (by decide) (isTrigger_cwXferAck _))
  | readNack _ => exact hbody (readBody_makesTriggers _ (by decide) (isTrigger_cwXfer _))

/-- Settles O46: with a dead controller each trigger is followed by a poll of TO_BUDGET reads and the timeout. -/
theorem deadControllerTimesOutEveryPoll : Obligations.DeadControllerTimesOutEveryPoll := by
  intro s x hdead
  rw [commandEffect_start, startBody_eq, afterPoll_trigger_dead _ _ _ (s := accept (encode (.start x)) s) hdead,
    commandEffect_byte, sendBody,
    afterPoll_trigger_dead _ _ _ (s := regWrite .DR _ (accept (encode (.byte x)) s)) hdead,
    commandEffect_readAck, afterPoll_trigger_dead _ _ _ (s := accept (encode (.readAck x)) s) hdead,
    commandEffect_readNack, afterPoll_trigger_dead _ _ _ (s := accept (encode (.readNack x)) s) hdead]
  simp [Claims.Happened, errSet, errMask, causeCode, causeIsRead, encode, mkWord, opcode, operand, argField_append]

/-- Settles O47: with a responsive controller each poll ends at its first read. -/
theorem responsiveControllerNeverTimesOut : Obligations.ResponsiveControllerNeverTimesOut := by
  intro s x d henv
  have hwith (i : Instr) : (accept (encode i) s).env = .delay 1 d 0 := henv
  refine ⟨?_, startBody_responsive_err (hwith _), ?_, ?_, fun v rest hd => ?_⟩
  · rw [Claims.Happened, commandEffect_start, startBody_responsive_events (hwith _)]
    simp [encode, mkWord, opcode, operand, argField_append]
  · rw [Claims.Happened, commandEffect_byte, sendBody_responsive_events _ (hwith _)]
    simp [encode, mkWord, opcode, operand, argField_append]
  · rw [commandEffect_byte, sendBody_responsive_err _ (hwith _), accept_err]
  · subst hd
    rw [commandEffect_readAck, afterPoll_readData_responsive _ _ (hwith _),
      commandEffect_readNack, afterPoll_readData_responsive _ _ (hwith _)]
    simp [Claims.Happened, encode, mkWord, opcode, operand]

end Sys2Proof.Proofs
end

section
/-! SUPPORT. The family of 30_encoding.md: the decoder read through the two fields of a word (R44 to R48, R50), the refusal of
a reserved word (R48), and the assembler on one call's text (R50). -/

namespace Sys2Proof

open Machine

/-! ### The decoder through the fields of the word -/

/-- A word is legal and decodes to an instruction, or it is not and decodes as reserved (30_encoding.md R47, R48). -/
theorem decode_cases (cw : CmdWord) :
    (cw.legal = true ∧ ∃ i, decode cw = .instr i) ∨ (cw.legal = false ∧ decode cw = .reserved (opField cw)) := by
  unfold CmdWord.legal decode
  split
  case h_7 =>
    have hop : ¬ (opField cw).toNat ≤ 5 := by simp only [imp_false] at *; omega
    exact .inr ⟨decide_eq_false hop, rfl⟩
  all_goals exact .inl ⟨decide_eq_true (by omega), _, rfl⟩

/-- The decoder keeps both fields, and gives no alias spelling (30_encoding.md R46, R50). -/
theorem fields_of_decode {cw : CmdWord} {i : Instr} (h : decode cw = .instr i) :
    i.wf = true ∧ opcode i = opField cw ∧ operand i = argField cw := by
  unfold decode at h
  split at h <;> cases h <;> exact ⟨rfl, (BitVec.eq_of_toNat_eq ‹_›).symm, rfl⟩

/-- Decoding and encoding are inverse between the words that decode and the well-formed instructions. -/
theorem decode_eq_instr_iff (cw : CmdWord) (i : Instr) : decode cw = .instr i ↔ i.wf = true ∧ encode i = cw := by
  constructor
  · intro h
    obtain ⟨hwf, hop, harg⟩ := fields_of_decode h
    exact ⟨hwf, by rw [encode, hop, harg, mkWord_fields]⟩
  · rintro ⟨hwf, rfl⟩
    cases i <;> cases hwf <;> simp [decode, opcode, operand]

/-- An alias has its delegate's word (30_encoding.md R50). -/
@[simp] theorem encode_delegate (i : Instr) : encode (delegate i) = encode i := by cases i <;> rfl

@[simp] theorem delegate_wf (i : Instr) : (delegate i).wf = true := by cases i <;> rfl

/-- The well-formed instructions are those that are no alias. -/
theorem wf_iff_delegate_eq (i : Instr) : i.wf = true ↔ delegate i = i := by cases i <;> simp [Instr.wf, delegate]

theorem not_legal_iff_decode_ne (cw : CmdWord) : cw.legal = false ↔ ∀ i, decode cw ≠ .instr i := by
  rcases decode_cases cw with ⟨hl, i, hd⟩ | ⟨hl, hd⟩ <;> simp [hl, hd]

theorem not_legal_iff_decode_reserved (cw : CmdWord) : cw.legal = false ↔ decode cw = .reserved (opField cw) := by
  rcases decode_cases cw with ⟨hl, i, hd⟩ | ⟨hl, hd⟩ <;> simp [hl, hd]

/-! ### The masks of R47's table -/

/-- A mask on the opcode bits compares the opcode alone. -/
theorem and_mkWord_eq_iff (cw : CmdWord) (mask op : BitVec 3) :
    cw &&& mkWord mask 0#8 = mkWord op 0#8 ↔ opField cw &&& mask = op := by
  have hand : cw &&& mkWord mask 0#8 = mkWord (opField cw &&& mask) 0#8 := calc
    _ = mkWord (opField cw) (argField cw) &&& mkWord mask 0#8 := by rw [mkWord_fields]
    _ = mkWord (opField cw &&& mask) (argField cw &&& 0#8) := BitVec.and_append
    _ = mkWord (opField cw &&& mask) 0#8 := by rw [BitVec.and_zero]
  rw [hand]
  exact ⟨fun h => by simpa using congrArg opField h, fun h => h ▸ rfl⟩

/-- A command row: with mask 0x700 the whole opcode is compared, and every operand byte is left open. -/
theorem and_0x700_eq_iff (cw : CmdWord) (op : BitVec 3) {command : Byte → Instr} (hwf : ∀ x, (command x).wf = true)
    (hencode : ∀ x, encode (command x) = mkWord op x) :
    cw &&& 0x700#11 = mkWord op 0#8 ↔ ∃ x, decode cw = .instr (command x) := by
  have hmask : cw &&& 0x700#11 = mkWord op 0#8 ↔ opField cw = op := by
    rw [show 0x700#11 = mkWord (BitVec.allOnes 3) 0#8 from rfl, and_mkWord_eq_iff, BitVec.and_allOnes]
  rw [hmask]
  simp only [decode_eq_instr_iff, hwf, true_and, hencode]
  exact ⟨fun h => ⟨argField cw, h ▸ mkWord_fields cw⟩, fun ⟨x, hx⟩ => by rw [← hx, opField_mkWord]⟩

/-- The reserved row: mask 0x600 finds the words that are not legal (30_encoding.md R47, R48). -/
theorem and_0x600_eq_iff (cw : CmdWord) : cw &&& 0x600#11 = 0x600#11 ↔ cw.legal = false := by
  have hop : ∀ op : BitVec 3, op &&& 6#3 = 6#3 ↔ decide (op.toNat ≤ 5) = false := by decide
  exact (and_mkWord_eq_iff cw 6#3 6#3).trans (hop (opField cw))

end Sys2Proof

namespace Sys2Proof.Machine

/-! ### Splitting text at characters it does not hold -/

theorem splitAtChar_of_notMem {c : Char} {cs : List Char} (h : c ∉ cs) : splitAtChar c cs = (cs, none) := by
  induction cs with
  | nil => rfl
  | cons x xs ih =>
    obtain ⟨hx, hxs⟩ := List.ne_and_not_mem_of_not_mem_cons h
    simp [splitAtChar, Ne.symm hx, ih hxs]

theorem splitAtChar_append_cons {c : Char} {cs : List Char} (h : c ∉ cs) (rest : List Char) :
    splitAtChar c (cs ++ c :: rest) = (cs, some rest) := by
  induction cs with
  | nil => simp [splitAtChar]
  | cons x xs ih =>
    obtain ⟨hx, hxs⟩ := List.ne_and_not_mem_of_not_mem_cons h
    simp [splitAtChar, Ne.symm hx, ih hxs]

theorem statements_of_notMem {cs : List Char} (h : ';' ∉ cs) : statements cs = [cs] := by
  induction cs with
  | nil => rfl
  | cons x xs ih =>
    obtain ⟨hx, hxs⟩ := List.ne_and_not_mem_of_not_mem_cons h
    simp [statements, Ne.symm hx, ih hxs]

theorem trimBlank_of_none {cs : List Char} (h : ∀ c ∈ cs, isBlankChar c = false) : trimBlank cs = cs := by
  have hfront : cs.dropWhile isBlankChar = cs := List.dropWhile_eq_self_iff.mpr fun _ => by simp [h]
  have hback : cs.reverse.dropWhile isBlankChar = cs.reverse := List.dropWhile_eq_self_iff.mpr fun _ => by simp [h]
  rw [trimBlank, hfront, hback, List.reverse_reverse]

/-! ### The text of one call -/

/-- `name(lit)`, as the disassembler prints a command (30_encoding.md R50). -/
def callText (name lit : List Char) : List Char := name ++ '(' :: (lit ++ [')'])

/-- Names and literals are of this kind: letters, digits and `_`, so that no delimiter stands in them. -/
def IsWord (cs : List Char) : Prop := cs.all isNameChar = true

theorem IsWord.notMem {cs : List Char} (h : IsWord cs) {c : Char} (hc : isNameChar c = false) : c ∉ cs :=
  fun hmem => by simp [List.all_eq_true.mp h c hmem] at hc

section
variable {name lit : List Char} (hname : IsWord name) (hlit : IsWord lit)
include hname hlit

/-- A character that is neither of a word nor a parenthesis is not in a call's text. -/
theorem notMem_callText {c : Char} (hc : isNameChar c = false) (hopen : c ≠ '(') (hclose : c ≠ ')') :
    c ∉ callText name lit := by
  simp [callText, hname.notMem hc, hlit.notMem hc, hopen, hclose]

theorem trimBlank_callText : trimBlank (callText name lit) = callText name lit := by
  refine trimBlank_of_none fun c hc => ?_
  refine Bool.eq_false_iff.mpr fun hblank => ?_
  have hblank : (c = ' ' ∨ c = '\n') ∨ c = '\t' := by simpa [isBlankChar] using hblank
  rcases hblank with (rfl | rfl) | rfl <;>
    exact notMem_callText hname hlit (by decide) (by decide) (by decide) hc

/-- A call's text is a program of one statement. -/
theorem parseProgram_callText {i : Instr} (h : parseCall (callText name lit) = some i) :
    parseProgram (callText name lit) = some [i] := by
  have hstatements := statements_of_notMem (notMem_callText hname hlit (c := ';') (by decide) (by decide) (by decide))
  have hsplit := splitAtChar_of_notMem (notMem_callText hname hlit (c := '=') (by decide) (by decide) (by decide))
  have hne : callText name lit ≠ [] := by simp [callText]
  simp [parseProgram, hstatements, parseStatements, trimBlank_callText hname hlit, hne, parseStatement, hsplit, h]

/-- The two pieces `parseCall` cuts a call's text into. -/
theorem split_callText :
    splitAtChar '(' (trimBlank (callText name lit)) = (name, some (lit ++ [')'])) ∧
    splitAtChar ')' (lit ++ [')']) = (lit, some []) :=
  ⟨by rw [trimBlank_callText hname hlit, callText, splitAtChar_append_cons (hname.notMem (by decide))],
    splitAtChar_append_cons (hlit.notMem (by decide)) []⟩

end

theorem parseProgram_plainCall {name : List Char} {i : Instr} (hname : IsWord name) (h : plainCommand name = some i) :
    parseProgram (callText name []) = some [i] := by
  have hlit : IsWord [] := rfl
  obtain ⟨hopen, hclose⟩ := split_callText hname hlit
  exact parseProgram_callText hname hlit (by simp only [parseCall, hopen, hclose, h])

theorem parseProgram_operandCall {name lit : List Char} {v : Byte} {i : Instr} (hname : IsWord name) (hlit : IsWord lit)
    (hv : parseOperand lit = some v) (h : operandCommand name v = some i) :
    parseProgram (callText name lit) = some [i] := by
  obtain ⟨hopen, hclose⟩ := split_callText hname hlit
  refine parseProgram_callText hname hlit ?_
  cases lit with
  | nil => cases hv
  | cons c cs => simp only [parseCall, hopen, hclose, hv, h]

/-! ### The printed operand -/

/-- A printed digit is a character of a word and has its value (log 27). -/
theorem hexDigit_spec : ∀ n < 16, isNameChar (hexDigit n) = true ∧ digitValue 16 (hexDigit n) = some n := by decide

section
variable (v : Byte)

/-- Both digits of a printed byte are below 16. -/
theorem byte_digits_lt : v.toNat / 16 < 16 ∧ v.toNat % 16 < 16 := by omega

theorem hexByte_isWord : IsWord (hexByte v) := by
  obtain ⟨hhigh, hlow⟩ := byte_digits_lt v
  have hlead : isNameChar '0' = true ∧ isNameChar 'x' = true := by decide
  simp [IsWord, hexByte, hlead, (hexDigit_spec _ hhigh).1, (hexDigit_spec _ hlow).1]

/-- A printed byte reads back as itself (30_encoding.md R50). -/
theorem parseOperand_hexByte : parseOperand (hexByte v) = some v := by
  obtain ⟨hhigh, hlow⟩ := byte_digits_lt v
  have hvalue : digitsValue 16 [hexDigit (v.toNat / 16), hexDigit (v.toNat % 16)] 0 = some v.toNat := by
    simp [digitsValue, (hexDigit_spec _ hhigh).2, (hexDigit_spec _ hlow).2, Nat.div_add_mod']
  have hbyte : v.toNat ≤ 255 := Nat.le_of_lt_succ v.isLt
  simp [parseOperand, hexByte, hvalue, hbyte]

end

end Sys2Proof.Machine

namespace Sys2Proof.Proofs

open Sys2Proof Sys2Proof.Machine

/-- Settles O4: the delegate is well-formed and has the same word, and the decoder inverts the encoder there. -/
theorem decodeOfEncodeIsTheDelegate : Obligations.DecodeOfEncodeIsTheDelegate :=
  fun i => ⟨(decode_eq_instr_iff _ _).mpr ⟨delegate_wf i, encode_delegate i⟩, wf_iff_delegate_eq i, delegate_wf i⟩

/-- Settles O5: the six command rows compare the opcode, and the reserved row finds the words that are not legal. -/
theorem wordEncodesRowExactlyWhenMasked : Obligations.WordEncodesRowExactlyWhenMasked := by
  intro cw
  exact ⟨and_0x700_eq_iff cw 0#3 (command := .init) (fun _ => rfl) fun _ => rfl,
    and_0x700_eq_iff cw 1#3 (command := .start) (fun _ => rfl) fun _ => rfl,
    and_0x700_eq_iff cw 2#3 (command := .stop) (fun _ => rfl) fun _ => rfl,
    and_0x700_eq_iff cw 3#3 (command := .byte) (fun _ => rfl) fun _ => rfl,
    and_0x700_eq_iff cw 4#3 (command := .readAck) (fun _ => rfl) fun _ => rfl,
    and_0x700_eq_iff cw 5#3 (command := .readNack) (fun _ => rfl) fun _ => rfl,
    (and_0x600_eq_iff cw).trans (not_legal_iff_decode_reserved cw)⟩

/-- Settles O6: both fields of the word are kept, and an opcode that decodes is at most 5. -/
theorem encodeOfDecodeIsTheWord : Obligations.EncodeOfDecodeIsTheWord := by
  intro cw i h
  obtain ⟨hwf, hencode⟩ := (decode_eq_instr_iff cw i).mp h
  obtain ⟨-, hop, harg⟩ := fields_of_decode h
  exact ⟨hencode, hwf, decide_eq_true (hop ▸ opcode_toNat_le i), harg⟩

/-- Settles O8: of all a step can do, only the offer of a word that does not decode refuses. -/
theorem reservedWordsAreRefused : Obligations.ReservedWordsAreRefused := by
  intro s r
  rw [and_0x600_eq_iff, not_legal_iff_decode_ne]
  rcases step_cases s with
    ⟨hrst, hs⟩ | ⟨-, -, hvalid, hs⟩ | ⟨-, -, -, i, hd, hs⟩ | ⟨hrst, hidle, hvalid, hd, hs⟩ | ⟨-, hbusy, i, -, hs⟩
  · simp [hs, hrst]
  · simp [hs, hvalid]
  · simp [hs, hd]
  · simp [hs, hrst, hidle, hvalid, hd, eq_comm]
  · simp [hs, hbusy]

/-- Settles O9: each command is printed as one call, whose name and operand the assembler reads back. -/
theorem assemblerReadsBackTheDisassembler : Obligations.AssemblerReadsBackTheDisassembler := by
  intro i
  cases i with
  | init _ | txStart _ => exact parseProgram_plainCall (name := ['i', 'n', 'i', 't']) rfl rfl
  | start a | txAddress a =>
    exact parseProgram_operandCall (name := ['s', 't', 'a', 'r', 't']) rfl (hexByte_isWord a)
      (parseOperand_hexByte a) rfl
  | stop _ | txStop _ => exact parseProgram_plainCall (name := ['s', 't', 'o', 'p']) rfl rfl
  | byte d | txByte d =>
    exact parseProgram_operandCall (name := ['b', 'y', 't', 'e']) rfl (hexByte_isWord d)
      (parseOperand_hexByte d) rfl
  | readAck _ =>
    exact parseProgram_plainCall (name := ['r', 'e', 'a', 'd', 'A', 'c', 'k']) rfl rfl
  | readNack _ =>
    exact parseProgram_plainCall (name := ['r', 'e', 'a', 'd', 'N', 'A', 'c', 'k']) rfl rfl

/-- Settles O7, by running the decoder on the eight words. -/
theorem specWordsDecode : Obligations.SpecWordsDecode := by
  unfold Obligations.SpecWordsDecode
  decide

end Sys2Proof.Proofs
end

section
/-! SUPPORT. The family of 40_sequencer_primitives.md: one step (R51 to R54, R57), the poll (R55), and whole commands as
runs of the phase table that end as their pseudocode says (R58 to R61). -/

namespace Sys2Proof.Machine

/-! ### The work of a busy step -/

/-- The work of the phase table's row for PH, without the host's side of the step; in IDLE nothing. -/
def workStep (s : State) : State :=
  match phaseRow s.ph with
  | none => s
  | some row => row.step s

theorem workStep_of_phaseRow {s : State} {row : PhaseRow} (h : phaseRow s.ph = some row) :
    workStep s = row.step s := by
  simp [workStep, h]

theorem phaseRow_of_ne_idle {p : Phase} (h : p ≠ .idle) : ∃ row, phaseRow p = some row :=
  Option.ne_none_iff_exists'.mp (mt phaseRow_eq_none_iff.mp h)

theorem phaseRow_ne_idle {p : Phase} {row : PhaseRow} (h : phaseRow p = some row) : p ≠ .idle := by
  rintro rfl
  cases h

/-- A step with no reset and a command in flight is the work of the phase, whatever else the host drives. -/
theorem step_of_busy {s : State} (hrst : (hostNow s).rst = false) (hbusy : s.ph ≠ .idle) :
    step s = .next (workStep (beginStep s)) := by
  obtain ⟨row, hrow⟩ := phaseRow_of_ne_idle hbusy
  rw [workStep_of_phaseRow (s := beginStep s) hrow]
  exact stepsBy_phaseRow hrst hrow s rfl rfl

theorem step_of_reset {s : State} (hrst : (hostNow s).rst = true) : step s = .next (applyReset (beginStep s)) := by
  simp [step, cycle, hrst]

/-- With a command in flight a step looks at no input port but `rst` (40_sequencer_primitives.md R52, 60_exceptions.md
R80). -/
theorem step_of_busy_ports {s : State} (hbusy : s.ph ≠ .idle) {h h' : HostInput} (hrst : h.rst = h'.rst)
    (l : List HostInput) : step { s with host := h :: l } = step { s with host := h' :: l } := by
  cases hr : h'.rst with
  | true =>
    rw [step_of_reset (s := { s with host := h :: l }) (hrst.trans hr),
      step_of_reset (s := { s with host := h' :: l }) hr]
    rfl
  | false =>
    rw [step_of_busy (s := { s with host := h :: l }) (hrst.trans hr) hbusy,
      step_of_busy (s := { s with host := h' :: l }) hr hbusy]
    rfl

/-- A step with no reset in IDLE that is offered nothing is the host's write of ERR alone. -/
theorem step_of_no_offer {s : State} (hidle : s.ph = .idle) (hrst : (hostNow s).rst = false)
    (hvalid : (hostNow s).cmdValid = false) : step s = .next (hostErrWrite (hostNow s) (beginStep s)) := by
  simp [step, cycle, hrst, hidle, inFlight, idleStep, hvalid]

/-- A step with no reset in IDLE that is offered the word of an instruction accepts it after the write of ERR. -/
theorem step_of_offer {s : State} (i : Instr) (hidle : s.ph = .idle) (hrst : (hostNow s).rst = false)
    (hvalid : (hostNow s).cmdValid = true) (hword : (hostNow s).cmdWord = encode i) :
    step s = .next (accept (encode i) (hostErrWrite (hostNow s) (beginStep s))) := by
  have hdecode : decode (encode i) = .instr (delegate i) :=
    (decode_eq_instr_iff _ _).mpr ⟨delegate_wf i, encode_delegate i⟩
  simp [step, cycle, hrst, hidle, inFlight, idleStep, hvalid, hword, hdecode, exec_eq_next, stepOf_idle]

/-! ### Which instruction does the work of a phase -/

theorem fields_of_inFlight {p : Phase} {x : Byte} {i : Instr} (h : inFlight p x = some i) :
    i.wf = true ∧ operand i = x ∧ phaseOpcode p = some (opcode i) := by
  cases p <;> cases h <;> exact ⟨rfl, rfl, rfl⟩

/-- A well-formed instruction is settled by its opcode and operand (30_encoding.md R44). -/
theorem eq_delegate_of_fields {i j : Instr} (hwf : j.wf = true) (hop : opcode j = opcode i)
    (harg : operand j = operand i) : j = delegate i := by
  have hencode : encode j = encode i := by rw [encode, encode, hop, harg]
  have hj : decode (encode i) = .instr j := (decode_eq_instr_iff _ _).mpr ⟨hwf, hencode⟩
  have hi : decode (encode i) = .instr (delegate i) :=
    (decode_eq_instr_iff _ _).mpr ⟨delegate_wf i, encode_delegate i⟩
  cases hj.symm.trans hi
  rfl

/-- In a phase of its own opcode an instruction, of either spelling, does the work of the phase. -/
theorem stepOf_eq_workStep {i : Instr} {s : State} (h : phaseOpcode s.ph = some (opcode i)) :
    stepOf i s = workStep s := by
  obtain ⟨row, hrow⟩ : ∃ row, phaseRow s.ph = some row := by
    refine phaseRow_of_ne_idle fun hidle => ?_
    simp [hidle, phaseOpcode, inFlight] at h
  obtain ⟨j, hj, hstep⟩ := inFlight_of_phaseRow hrow (operand i)
  obtain ⟨hwf, harg, hop⟩ := fields_of_inFlight hj
  obtain rfl := eq_delegate_of_fields hwf (Option.some.inj (hop.symm.trans h)) harg
  rw [← stepOf_delegate, hstep s rfl, workStep_of_phaseRow hrow]

/-- An instruction is accepted in IDLE, does the work of a phase of its own opcode, and does nothing in another
(log 8). -/
theorem stepOf_phase_cases (i : Instr) (s : State) :
    s.ph = .idle ∨ phaseOpcode s.ph = some (opcode i) ∨ stepOf i s = s := by
  cases i <;> simp only [stepOf, initSteps, startSteps, stopSteps, byteSteps, readAckSteps, readNackSteps] <;> split <;>
    simp [*, phaseOpcode, inFlight, opcode]

/-! ### The events of a step -/

theorem isAccess_iff (e : Event) : isAccess e = true ↔ (∃ r v, e = .write r v) ∨ ∃ r v, e = .read r v := by
  cases e <;> simp [isAccess, isWrite, isRead]

/-- A poll phase follows each trigger (40_sequencer_primitives.md R54). -/
theorem phaseCause_next_of_trigger {p : Phase} {m : Config → Byte} {q : Phase}
    (h : phaseRow p = some (.trigger m q)) : ∃ n, phaseCause q = some n := by
  cases p <;> cases h <;> exact ⟨_, rfl⟩

theorem ne_idle_of_phaseCause {p : Phase} {n : Cause} (h : phaseCause p = some n) : p ≠ .idle := by
  rintro rfl
  cases h

/-- `ev` happened in a row's step from `s` to `t`: it holds at most one access and no accept, and a Done exactly when PH
goes to IDLE. -/
structure RowEvents (s t : State) (ev : List Event) : Prop where
  happened : Claims.Happened s t ev
  access : (traceOf ev).length ≤ 1
  noAccept : ∀ cw, Event.accept cw ∉ ev
  done : ev.any isDone = true ↔ t.ph = .idle

/-- One access and, where it takes PH to IDLE, a Done. -/
theorem RowEvents.of_access {s t : State} {e : Event} (he : isAccess e = true) (v : Option Byte)
    (h : t.events = s.events ++ e :: if t.ph = .idle then [.done v] else []) :
    RowEvents s t (e :: if t.ph = .idle then [.done v] else []) := by
  rcases (isAccess_iff e).mp he with ⟨r, w, rfl⟩ | ⟨r, w, rfl⟩ <;> refine ⟨h, ?_, fun cw => ?_, ?_⟩ <;> split <;>
    simp_all [traceOf, isAccess, isWrite, isRead, isDone]

theorem PhaseRow.step_rowEvents {row : PhaseRow} {s : State} (hrow : phaseRow s.ph = some row) :
    ∃ ev, RowEvents s (row.step s) ev := by
  cases row with
  | write r v q => exact ⟨_, .of_access (e := .write r (v s.cfg.raw s.arg)) rfl none (by simp [step])⟩
  | trigger m q =>
    obtain ⟨n, hn⟩ := phaseCause_next_of_trigger hrow
    exact ⟨_, .of_access (e := .write .CR (m s.cfg.raw)) rfl none (by simp [step, ne_idle_of_phaseCause hn])⟩
  | poll n q =>
    have hbusy : s.ph ≠ .idle := phaseRow_ne_idle hrow
    rcases pollStep_cases n (leaveFor q) s with ⟨-, h⟩ | ⟨-, -, h⟩ | ⟨-, -, h⟩ <;> rw [step, h]
    · exact ⟨_, raiseTimeout_events n s, by simp [traceOf, isAccess, isWrite, isRead], by simp, by simp [isDone]⟩
    · exact ⟨_, .of_access (e := .read .CR (regRead .CR s).1) rfl none (by simp)⟩
    · exact ⟨_, .of_access (e := .read .CR (regRead .CR s).1) rfl none (by simp [hbusy])⟩
  | readData => exact ⟨_, .of_access (e := .read .DR (regRead .DR s).1) rfl (some (regRead .DR s).1) (by simp [step])⟩

/-- `ev` happened in a step from `s` to `t`: the mark stands before it, it holds at most one access, no accept of a word
that is not legal, and with no reset a Done exactly when the step ends a command. -/
structure StepEvents (s t : State) (ev : List Event) : Prop where
  happened : Claims.Happened s t ev
  mark : t.mark = s.events.length
  access : (traceOf ev).length ≤ 1
  accept : ∀ cw, Event.accept cw ∈ ev → cw.legal = true
  done : (hostNow s).rst = false → (ev.any isDone = true ↔ s.ph ≠ .idle ∧ t.ph = .idle)

theorem encode_legal (i : Instr) : (encode i).legal = true := by
  simpa [CmdWord.legal] using opcode_toNat_le i

theorem step_stepEvents {s t : State} (hst : step s = .next t) : ∃ ev, StepEvents s t ev := by
  rcases stepsBy_cases (hostNow s) s.ph with
    ⟨hf, hrst⟩ | ⟨hf, hidle⟩ | ⟨i, hf, hidle⟩ | ⟨row, hf, hrow⟩ | ⟨r, hrefused⟩
  · refine hf.eq_of_step hst ▸ ⟨[.reset], rfl, rfl, Nat.zero_le _, by simp, by simp [hrst]⟩
  · refine hf.eq_of_step hst ▸ ⟨_, hostErrWrite_events _ _, by simp, ?_, ?_, fun _ => ?_⟩ <;> split <;>
      simp [traceOf, isAccess, isWrite, isRead, isDone, hidle]
  · refine hf.eq_of_step hst ▸ ⟨(if (hostNow s).errWr then [.errWrite (hostNow s).errWdata] else []) ++
      [.accept (encode i)], by simp [Claims.Happened], by simp, ?_, ?_, fun _ => ?_⟩ <;> split <;>
      simp [traceOf, isAccess, isWrite, isRead, isDone, hidle, encode_legal]
  · obtain ⟨ev, h⟩ := PhaseRow.step_rowEvents (s := beginStep s) hrow
    obtain ⟨-, -, -, hmark⟩ := row.step_frame (beginStep s)
    obtain rfl := hf.eq_of_step hst
    refine ⟨ev, h.happened, hmark, h.access, fun cw hcw => absurd hcw (h.noAccept cw), fun _ => ?_⟩
    simpa [phaseRow_ne_idle hrow] using h.done
  · cases (hrefused s rfl rfl).symm.trans hst

/-! ### The register port -/

/-- A list of at most one access, by cases. -/
theorem traceOf_cases {ev : List Event} (h : (traceOf ev).length ≤ 1) :
    traceOf ev = [] ∨ (∃ r v, traceOf ev = [.write r v]) ∨ ∃ r v, traceOf ev = [.read r v] := by
  match hev : traceOf ev with
  | [] => exact .inl rfl
  | [e] =>
    have he : isAccess e = true := (List.mem_filter.mp (hev ▸ List.mem_singleton_self e : e ∈ traceOf ev)).2
    simpa using (isAccess_iff e).mp he
  | _ :: _ :: _ => simp [hev] at h

@[simp] theorem write_mem_traceOf {r : PReg} {v : Byte} {ev : List Event} :
    Event.write r v ∈ traceOf ev ↔ Event.write r v ∈ ev := by
  simp [traceOf, isAccess, isWrite]

@[simp] theorem read_mem_traceOf {r : PReg} {v : Byte} {ev : List Event} :
    Event.read r v ∈ traceOf ev ↔ Event.read r v ∈ ev := by
  simp [traceOf, isAccess, isRead]

theorem filterMap_traceOf {α : Type} {f : Event → Option α} (hf : ∀ e, isAccess e = false → f e = none)
    (ev : List Event) : (traceOf ev).filterMap f = ev.filterMap f := by
  induction ev with
  | nil => rfl
  | cons e ev ih => cases he : isAccess e <;> simp_all [traceOf, List.filterMap_cons]

theorem any_traceOf {p : Event → Bool} (hp : ∀ e, p e = true → isAccess e = true) (ev : List Event) :
    (traceOf ev).any p = ev.any p := by
  induction ev with
  | nil => rfl
  | cons e ev ih => cases he : isAccess e <;> cases h : p e <;> simp_all [traceOf]

/-- The ports show the trace of the last step's events. -/
theorem ports_of_lastEvents {t : State} {ev : List Event} (h : lastEvents t = ev) :
    regWrPort t = (traceOf ev).any isWrite ∧ regRdPort t = (traceOf ev).any isRead ∧
    regSelPort t = ((traceOf ev).filterMap accessReg).head?.map regSelCode ∧
    regWdataPort t = ((traceOf ev).filterMap writtenByte).head? := by
  rw [any_traceOf (by simp +contextual [isAccess]), any_traceOf (by simp +contextual [isAccess]),
    filterMap_traceOf fun e => by cases e <;> simp [isAccess, isWrite, isRead, accessReg],
    filterMap_traceOf fun e => by cases e <;> simp [isAccess, isWrite, isRead, writtenByte]]
  simp [regWrPort, regRdPort, regSelPort, regWdataPort, h]

/-- The codes of the registers but AR (20_memory.md R27). -/
theorem regSelCode_le {r : PReg} (h : r ≠ .AR) : (regSelCode r).toNat ≤ 3 := by
  revert h; cases r <;> simp [regSelCode]

end Sys2Proof.Machine

namespace Sys2Proof.Proofs

open Sys2Proof Sys2Proof.Machine

/-- Settles O16: an accept latches both fields of its word, the ERR write of the same step comes first, and a busy step
looks at no port but `rst`. -/
theorem acceptLatchesTheCommand : Obligations.AcceptLatchesTheCommand := by
  refine ⟨fun s hidle hrst hvalid hlegal => ?_, fun s hidle hrst hvalid hwr => ?_,
    fun s hbusy => ⟨?_, fun v w cw x => ?_⟩, fun s t cw hst hmem => ?_⟩
  · have hfirst : ∀ op : BitVec 3, op.toNat ≤ 5 →
        [Phase.i1, .s1, .p1, .b1, .a1, .n1][op.toNat]? = some (firstPhase op) := by decide
    rcases decode_cases (hostNow s).cmdWord with ⟨-, i, hi⟩ | ⟨hnot, -⟩
    · obtain ⟨-, hword⟩ := (decode_eq_instr_iff _ _).mp hi
      refine ⟨_, step_of_offer i hidle hrst hvalid hword.symm, ?_⟩
      rw [hword]
      exact ⟨rfl, rfl, hfirst _ hlegal, by simp, by simp, by simp, by simp, by simp [errWritten, errDefined], by simp⟩
    · exact absurd hlegal (of_decide_eq_false hnot)
  · rw [step_of_no_offer hidle hrst hvalid, hostErrWrite, if_pos hwr]
    rfl
  · simpa [cmdReadyPort] using hbusy
  · exact step_of_busy_ports hbusy (by rfl) _
  · obtain ⟨ev, h⟩ := step_stepEvents hst
    rw [h.happened, List.drop_left] at hmem
    exact of_decide_eq_true (h.accept cw hmem)

/-- Settles O27: the five phases are those whose row is a trigger, and a poll phase follows each. -/
theorem triggerWritesAndLoadsTheFullBudget : Obligations.TriggerWritesAndLoadsTheFullBudget := by
  intro s m hrst hphase
  obtain ⟨m', q, hrow, rfl⟩ : ∃ m' q, phaseRow s.ph = some (.trigger m' q) ∧ m = m' s.cfg.raw := by
    rcases hphase with ⟨hp, rfl⟩ | ⟨hp, rfl⟩ | ⟨hp, rfl⟩ | ⟨hp, rfl⟩ | ⟨hp, rfl⟩ <;> rw [hp] <;>
      exact ⟨_, _, rfl, rfl⟩
  exact ⟨_, stepsBy_phaseRow hrst hrow s rfl rfl, by simp [PhaseRow.step], rfl, phaseCause_next_of_trigger hrow,
    rfl, rfl, rfl, rfl⟩

/-- Settles O28: in a poll phase with CNT = 0 the step is `raise Timeout(n)`. -/
theorem timeoutSetsOneBitAndEndsTheCommand : Obligations.TimeoutSetsOneBitAndEndsTheCommand := by
  intro s n hrst hcause hcnt
  obtain ⟨q, hrow⟩ := phaseRow_of_phaseCause hcause
  have hstep : step s = .next (raiseTimeout n (beginStep s)) :=
    (stepsBy_phaseRow hrst hrow s rfl rfl).trans (congrArg _ (pollStep_timeout n _ (beginStep s) hcnt))
  have hread : causeIsRead n = true ↔ causeCode n = 3 ∨ causeCode n = 4 := by cases n <;> decide
  have hdone : donePort (raiseTimeout n (beginStep s)) = true := by
    rw [donePort, lastEvents_of_mark (raiseTimeout_mark n _) (raiseTimeout_events n _)]
    rfl
  exact ⟨_, hstep, by simp [errSet, errMask], by simp [hread], by simp, by simp, by simp, by simp, by simp, by simp,
    by simp [traceOf, isAccess, isWrite, isRead], hdone, by simp [hread]⟩

/-- Settles O35: the ports show the trace of the step's events, which is empty, one write or one read, and not of AR. -/
theorem stepMakesAtMostOneAccess : Obligations.StepMakesAtMostOneAccess := by
  refine ⟨rfl, fun s t hst => ?_⟩
  obtain ⟨ev, h⟩ := step_stepEvents hst
  obtain ⟨hwr, hrd, hsel, hdata⟩ := ports_of_lastEvents (lastEvents_of_mark h.mark h.happened)
  have hAR : ∀ e ∈ traceOf ev, accessReg e ≠ some .AR := by
    obtain ⟨ev', hev', -, -, hno⟩ := accessesFollowTheMatrix s t hst
    obtain rfl : ev = ev' := List.append_cancel_left (h.happened.symm.trans hev')
    exact fun e he => hno e (List.mem_of_mem_filter he)
  refine ⟨ev, h.happened, h.access, ?_⟩
  simp only [hwr, hrd, hsel, hdata, ← write_mem_traceOf (ev := ev), ← read_mem_traceOf (ev := ev)]
  rcases traceOf_cases h.access with htrace | ⟨r, v, htrace⟩ | ⟨r, v, htrace⟩ <;> rw [htrace] at hAR ⊢
  · simp
  · have hr : r ≠ .AR := by simpa [accessReg] using hAR
    simp [isWrite, isRead, accessReg, writtenByte, eq_comm, regSelCode_le hr]
  · have hr : r ≠ .AR := by simpa [accessReg] using hAR
    simp [isWrite, isRead, accessReg, writtenByte, eq_comm, regSelCode_le hr]

/-- Settles O37: with no reset a Done stands among a step's events exactly when the step ends a command. -/
theorem donePulsesAtCompletion : Obligations.DonePulsesAtCompletion := by
  intro s t hrst hst
  obtain ⟨ev, h⟩ := step_stepEvents hst
  rw [donePort, lastEvents_of_mark h.mark h.happened]
  exact ⟨h.done hrst, by simp [cmdReadyPort]⟩

/-- Settles O15: the accept step executes the decoded instruction, and each phase but IDLE has a row, whose command is in
flight. -/
theorem stepIsExecOfTheDecodedCommand : Obligations.StepIsExecOfTheDecodedCommand := by
  refine ⟨fun s i hidle hrst hvalid hdecode => ?_, fun s i hrst hi => ?_, fun s hbusy => ?_⟩
  · simp [step, cycle, beginStep, hrst, hidle, inFlight, idleStep, hvalid, hdecode]
  · simp [step, cycle, beginStep, hrst, hi]
  · obtain ⟨row, hrow⟩ := phaseRow_of_ne_idle hbusy
    obtain ⟨i, hi, -⟩ := inFlight_of_phaseRow hrow s.arg
    exact ⟨i, hi⟩

/-- Settles O17: the step is the host's write of ERR alone, and none is offered. -/
theorem idleWithNothingOfferedStaysIdle : Obligations.IdleWithNothingOfferedStaysIdle := by
  intro s hidle hrst hvalid hwr
  rw [step_of_no_offer hidle hrst hvalid, hostErrWrite, hwr]
  rfl

/-- Settles O25: PH is not IDLE and not a phase of the instruction's own opcode. -/
theorem commandOfAnotherPhaseDoesNothing : Obligations.CommandOfAnotherPhaseDoesNothing := by
  intro i s o hphase hne
  rw [exec_eq_next]
  rcases stepOf_phase_cases i s with hidle | hown | hnothing
  · simp [hidle, phaseOpcode, inFlight] at hphase
  · exact absurd (Option.some.inj (hphase.symm.trans hown)) hne
  · rw [hnothing]

end Sys2Proof.Proofs
end

section
/-! SUPPORT. The family of 40_sequencer_primitives.md, second part: the poll (R55), the events of a whole command (R53, R60,
R61), and whole commands as runs of the phase table that end as their pseudocode says (R56 to R61). -/

namespace Sys2Proof.Machine

/-! ### The poll, one read at a time -/

theorem pollLoop_ok (k : Nat) {s : State} (h : flagSet s.cfg.raw (regRead .CR s).1 = true) :
    pollLoop (k + 1) s = (true, (regRead .CR s).2) := by
  simp [pollLoop, h]

theorem pollLoop_again (k : Nat) {s : State} (h : flagSet s.cfg.raw (regRead .CR s).1 = false) :
    pollLoop (k + 1) s = pollLoop k { (regRead .CR s).2 with cnt := s.cnt - 1#17 } := by
  simp [pollLoop, h]

/-- A CNT that is not 0 is one more than its countdown. -/
theorem toNat_eq_pred_succ {c : Count} (h : c ≠ 0#17) : c.toNat = (c - 1#17).toNat + 1 := by
  have hpos : c.toNat ≠ 0 := fun h0 => h (BitVec.eq_of_toNat_eq h0)
  have hpred := cnt_pred c (c.toNat - 1) (by omega)
  omega

/-- The answers `pre` with the flag clear are read off and counted, and the poll goes on. -/
theorem pollLoop_clear (k : Nat) (rest : List Byte) {pre : List Byte} {s : State}
    (h : ∀ x ∈ pre, flagSet s.cfg.raw x = false) :
    pollLoop (pre.length + k) { s with env := .free (pre ++ rest) } =
      pollLoop k { s with
        cnt := s.cnt - BitVec.ofNat 17 pre.length, env := .free rest, events := s.events ++ pre.map (.read .CR) } := by
  induction pre generalizing s with
  | nil => simp
  | cons x pre ih =>
    obtain ⟨hx, hpre⟩ := List.forall_mem_cons.mp h
    have hread := regRead_free .CR { s with env := .free (x :: (pre ++ rest)) } x (pre ++ rest) rfl
    have hlength : (x :: pre).length + k = (pre.length + k) + 1 := by simp only [List.length_cons]; omega
    have hcnt : s.cnt - 1#17 - BitVec.ofNat 17 pre.length = s.cnt - BitVec.ofNat 17 (pre.length + 1) := by
      rw [BitVec.ofNat_add]; ring
    rw [hlength, List.cons_append, pollLoop_again _ (by rw [hread]; exact hx), hread]
    refine (ih (s := { s with cnt := s.cnt - 1#17, events := s.events ++ [.read .CR x] }) hpre).trans ?_
    simp [hcnt]

/-! ### A poll and what follows it -/

section
variable (n : Cause) (ok : State → State) {s : State}

theorem afterPoll_eq (s : State) :
    afterPoll n ok s = if (poll s).1 then ok (poll s).2 else raiseTimeout n (poll s).2 := by
  unfold afterPoll
  rcases poll s with ⟨_ | _, t⟩ <;> rfl

theorem afterPoll_timeout (h : s.cnt = 0#17) : afterPoll n ok s = raiseTimeout n s := by
  simp [afterPoll, poll, h, pollLoop]

theorem afterPoll_ok (h : s.cnt ≠ 0#17) (hf : flagSet s.cfg.raw (regRead .CR s).1 = true) :
    afterPoll n ok s = ok (regRead .CR s).2 := by
  rw [afterPoll, poll, toNat_eq_pred_succ h, pollLoop_ok _ hf]

theorem afterPoll_again (h : s.cnt ≠ 0#17) (hf : flagSet s.cfg.raw (regRead .CR s).1 = false) :
    afterPoll n ok s = afterPoll n ok { (regRead .CR s).2 with cnt := s.cnt - 1#17 } := by
  rw [afterPoll, poll, toNat_eq_pred_succ h, pollLoop_again _ hf]
  rfl

/-- A poll does not look at PH when what follows it does not. -/
theorem afterPoll_goto {ok : State → State} (hok : ∀ p t, ok (goto p t) = ok t) (p : Phase) (s : State) :
    afterPoll n ok (goto p s) = afterPoll n ok s := by
  have hpoll : poll (goto p s) = ((poll s).1, goto p (poll s).2) := pollLoop_goto p s.cnt.toNat s
  rw [afterPoll_eq, afterPoll_eq, hpoll]
  simp only [hok, raiseTimeout_goto]

end

/-! ### The rest of a command, from any of its phases -/

/-- The pseudocode of a command from phase `p` on; IDLE is its completion (40_sequencer_primitives.md R58). -/
def restFrom : Phase → State → State
  | .idle => complete
  | .i1 => initBody
  | .i2 => fun s => complete (regWrite .CR (cwEnable s.cfg.raw) (regWrite .BR (brDivByte s.cfg.raw) s))
  | .i3 => fun s => complete (regWrite .CR (cwEnable s.cfg.raw) s)
  | .s1 => startBody
  | .s2 => afterPoll .start addressBody
  | .s3 => addressBody
  | .s4 => fun s => afterPoll .address complete (trigger (cwXfer s.cfg.raw) s)
  | .s5 => afterPoll .address complete
  | .p1 => stopBody
  | .b1 => byteBody
  | .b2 => fun s => afterPoll .byte complete (trigger (cwXfer s.cfg.raw) s)
  | .b3 => afterPoll .byte complete
  | .a1 => readAckBody
  | .a2 => afterPoll .readAck readData
  | .a3 => readData
  | .n1 => readNackBody
  | .n2 => afterPoll .readNack readData
  | .n3 => readData

/-- The whole pseudocode is what follows the first phase. -/
theorem commandBody_eq_restFrom (i : Instr) : commandBody i = restFrom (firstPhase (opcode i)) := by
  cases i <;> rfl

/-- A row's work and then the rest of the command after it. -/
def PhaseRow.stepThenRest : PhaseRow → State → State
  | .write r v q, s => restFrom q (regWrite r (v s.cfg.raw s.arg) s)
  | .trigger m q, s => restFrom q (Machine.trigger (m s.cfg.raw) s)
  | .poll n q, s => afterPoll n (restFrom q) s
  | .readData, s => Machine.readData s

/-- The pseudocode follows the phase table. -/
theorem restFrom_of_phaseRow {p : Phase} {row : PhaseRow} (h : phaseRow p = some row) (s : State) :
    restFrom p s = row.stepThenRest s := by
  cases p <;> cases h <;> rfl

theorem addressBody_goto (p : Phase) (s : State) : addressBody (goto p s) = addressBody s :=
  afterPoll_goto .address (fun _ _ => rfl) p (trigger (cwXfer s.cfg.raw) (regWrite .DR s.arg s))

theorem startBody_goto (p : Phase) (s : State) : startBody (goto p s) = startBody s :=
  afterPoll_goto .start addressBody_goto p (trigger (cwStart s.cfg.raw) s)

/-- The pseudocode does not look at PH. -/
theorem restFrom_goto (q p : Phase) (s : State) : restFrom q (goto p s) = restFrom q s := by
  cases q with
  | idle | i1 | i2 | i3 | p1 | a3 | n3 => rfl
  | s1 => exact startBody_goto p s
  | s2 => exact afterPoll_goto .start addressBody_goto p s
  | s3 => exact addressBody_goto p s
  | s4 => exact afterPoll_goto .address (fun _ _ => rfl) p (trigger (cwXfer s.cfg.raw) s)
  | s5 => exact afterPoll_goto .address (fun _ _ => rfl) p s
  | b1 => exact afterPoll_goto .byte (fun _ _ => rfl) p (trigger (cwXfer s.cfg.raw) (regWrite .DR s.arg s))
  | b2 => exact afterPoll_goto .byte (fun _ _ => rfl) p (trigger (cwXfer s.cfg.raw) s)
  | b3 => exact afterPoll_goto .byte (fun _ _ => rfl) p s
  | a1 => exact afterPoll_goto .readAck (fun _ _ => rfl) p (trigger (cwXferAck s.cfg.raw) s)
  | a2 => exact afterPoll_goto .readAck (fun _ _ => rfl) p s
  | n1 => exact afterPoll_goto .readNack (fun _ _ => rfl) p (trigger (cwXfer s.cfg.raw) s)
  | n2 => exact afterPoll_goto .readNack (fun _ _ => rfl) p s

/-- The state in which the command in flight will end; an IDLE state itself. -/
def finish (s : State) : State := if s.ph = .idle then s else restFrom s.ph s

theorem finish_of_idle {s : State} (h : s.ph = .idle) : finish s = s := if_pos h

theorem finish_of_busy {s : State} (h : s.ph ≠ .idle) : finish s = restFrom s.ph s := if_neg h

theorem finish_leaveFor (q : Phase) (s : State) : finish (leaveFor q s) = restFrom q s := by
  by_cases hq : q = .idle
  · subst hq
    exact finish_of_idle rfl
  · rw [leaveFor_of_ne_idle hq, finish_of_busy hq]
    exact restFrom_goto q q s

/-- The work of a phase does not change the state in which the command will end. -/
theorem finish_workStep {s : State} (hbusy : s.ph ≠ .idle) : finish (workStep s) = finish s := by
  obtain ⟨row, hrow⟩ := phaseRow_of_ne_idle hbusy
  have hrest (t : State) (ht : t.ph = s.ph) : finish t = row.stepThenRest t := by
    rw [finish_of_busy (ht ▸ hbusy), ht, restFrom_of_phaseRow hrow]
  rw [workStep_of_phaseRow hrow, hrest s rfl]
  cases row with
  | write r v q => exact finish_leaveFor q _
  | trigger m q =>
    obtain ⟨n, hn⟩ := phaseCause_next_of_trigger hrow
    rw [PhaseRow.step, ← leaveFor_of_ne_idle (ne_idle_of_phaseCause hn)]
    exact finish_leaveFor q _
  | poll n q =>
    rcases pollStep_cases n (leaveFor q) s with ⟨hc, h⟩ | ⟨hc, hf, h⟩ | ⟨hc, hf, h⟩ <;>
      rw [PhaseRow.step, h, PhaseRow.stepThenRest]
    · rw [afterPoll_timeout n _ hc, finish_of_idle (raiseTimeout_ph n s)]
    · rw [afterPoll_ok n _ hc hf, finish_leaveFor]
    · rw [afterPoll_again n _ hc hf]
      exact hrest _ rfl
  | readData => exact finish_of_idle rfl

/-! ### How many steps are left -/

/-- The most steps from phase `p` to IDLE with budget `b`, beside the reads CNT still allows in a poll phase
(40_sequencer_primitives.md R61). -/
def phaseSteps (b : Nat) : Phase → Nat
  | .idle => 0
  | .i1 => 3
  | .i2 => 2
  | .i3 => 1
  | .s1 => 2 * b + 4
  | .s2 => b + 3
  | .s3 => b + 3
  | .s4 => b + 2
  | .s5 => 1
  | .p1 => 1
  | .b1 => b + 3
  | .b2 => b + 2
  | .b3 => 1
  | .a1 => b + 2
  | .a2 => 1
  | .a3 => 1
  | .n1 => b + 2
  | .n2 => 1
  | .n3 => 1

/-- The most steps until IDLE. -/
def stepsLeft (s : State) : Nat :=
  phaseSteps (toBudget s.cfg.raw) s.ph + if phaseCause s.ph = none then 0 else s.cnt.toNat

theorem stepsLeft_of_poll {s : State} {n : Cause} (h : phaseCause s.ph = some n) :
    stepsLeft s = phaseSteps (toBudget s.cfg.raw) s.ph + s.cnt.toNat := by
  simp [stepsLeft, h]

theorem stepsLeft_of_no_poll {s : State} (h : phaseCause s.ph = none) :
    stepsLeft s = phaseSteps (toBudget s.cfg.raw) s.ph := by
  simp [stepsLeft, h]

theorem stepsLeft_of_idle {s : State} (h : s.ph = .idle) : stepsLeft s = 0 := by
  simp [stepsLeft, h, phaseCause, phaseSteps]

/-- What a row takes of the steps left: its own step, and a trigger the reads of the poll that follows it. The steps of a poll
are those of CNT. -/
def PhaseRow.cost (b : Nat) : PhaseRow → Nat
  | .write _ _ _ => 1
  | .trigger _ _ => b + 1
  | .poll _ _ => 0
  | .readData => 1

theorem cost_add_phaseSteps_next_le (b : Nat) {p : Phase} {row : PhaseRow} (h : phaseRow p = some row) :
    row.cost b + phaseSteps b row.next ≤ phaseSteps b p := by
  cases p <;> cases h <;> simp only [phaseSteps, PhaseRow.next, PhaseRow.cost] <;> omega

theorem phaseSteps_pos (b : Nat) {p : Phase} (h : p ≠ .idle) : 0 < phaseSteps b p := by
  cases p <;> simp [phaseSteps] at h ⊢

theorem phaseSteps_add_le (b : Nat) (p : Phase) :
    phaseSteps b p + (if phaseCause p = none then 0 else b) ≤ 2 * b + 4 := by
  cases p <;> simp [phaseSteps, phaseCause] <;> omega

/-- No poll phase follows a poll (40_sequencer_primitives.md R58). -/
theorem phaseCause_next_of_poll {p : Phase} {n : Cause} {q : Phase} (h : phaseRow p = some (.poll n q)) :
    phaseCause q = none := by
  cases p <;> cases h <;> rfl

theorem stepsLeft_workStep_lt {s : State} (hbusy : s.ph ≠ .idle) : stepsLeft (workStep s) < stepsLeft s := by
  obtain ⟨row, hrow⟩ := phaseRow_of_ne_idle hbusy
  have hpos : 0 < stepsLeft s := Nat.lt_of_lt_of_le (phaseSteps_pos _ hbusy) (Nat.le_add_right _ _)
  have hle : row.cost (toBudget s.cfg.raw) + phaseSteps (toBudget s.cfg.raw) row.next ≤ stepsLeft s :=
    (cost_add_phaseSteps_next_le _ hrow).trans (Nat.le_add_right _ _)
  have hleave (t : State) (ht : t.cfg = s.cfg) {q : Phase} (hq : phaseCause q = none) :
      stepsLeft (leaveFor q t) = phaseSteps (toBudget s.cfg.raw) q := by
    rw [stepsLeft_of_no_poll (by rwa [leaveFor_ph]), leaveFor_ph, leaveFor_cfg, ht]
  rw [workStep_of_phaseRow hrow]
  cases row with
  | write r v q =>
    rw [PhaseRow.step, hleave (regWrite r (v s.cfg.raw s.arg) s) rfl (phaseCause_next_of_write hrow)]
    simp only [PhaseRow.cost, PhaseRow.next] at hle
    omega
  | trigger m q =>
    obtain ⟨n, hn⟩ := phaseCause_next_of_trigger hrow
    rw [PhaseRow.step, stepsLeft_of_poll hn]
    simp only [PhaseRow.cost, PhaseRow.next, goto_cfg, goto_ph, goto_cnt, trigger_cfg, trigger_cnt,
      ValidConfig.toBudgetCount_toNat] at hle ⊢
    omega
  | poll n q =>
    have hpoll := phaseCause_of_phaseRow hrow
    rcases pollStep_cases n (leaveFor q) s with ⟨hc, h⟩ | ⟨hc, hf, h⟩ | ⟨hc, hf, h⟩ <;> rw [PhaseRow.step, h]
    · rwa [stepsLeft_of_idle (raiseTimeout_ph n s)]
    · have hcnt := toNat_eq_pred_succ hc
      have hnext : phaseSteps (toBudget s.cfg.raw) q ≤ phaseSteps (toBudget s.cfg.raw) s.ph := by
        simpa [PhaseRow.cost, PhaseRow.next] using cost_add_phaseSteps_next_le (toBudget s.cfg.raw) hrow
      rw [hleave (regRead .CR s).2 rfl (phaseCause_next_of_poll hrow), stepsLeft_of_poll hpoll]
      omega
    · have hcnt := toNat_eq_pred_succ hc
      have hdown : stepsLeft { (regRead .CR s).2 with cnt := s.cnt - 1#17 } =
          phaseSteps (toBudget s.cfg.raw) s.ph + (s.cnt - 1#17).toNat := stepsLeft_of_poll hpoll
      rw [stepsLeft_of_poll hpoll]
      exact hdown.trans_lt (by omega)
  | readData => rwa [PhaseRow.step, stepsLeft_of_idle (readData_ph s)]

/-- `n` is the number of steps of work from `s` to IDLE. -/
structure ReachesIdle (n : Nat) (s : State) : Prop where
  idle : (workStep^[n] s).ph = .idle
  busy : ∀ j < n, (workStep^[j] s).ph ≠ .idle

/-- The block comes back to IDLE within the steps that are left. -/
theorem exists_reachesIdle (s : State) : ∃ n ≤ stepsLeft s, ReachesIdle n s := by
  by_cases hidle : s.ph = .idle
  · exact ⟨0, Nat.zero_le _, hidle, by simp⟩
  · have hlt := stepsLeft_workStep_lt hidle
    obtain ⟨n, hn, hend, hbusy⟩ := exists_reachesIdle (workStep s)
    refine ⟨n + 1, by omega, hend, fun j hj => ?_⟩
    cases j with
    | zero => exact hidle
    | succ j => exact hbusy j (by omega)
termination_by stepsLeft s

/-- At IDLE the state is the one the pseudocode gives. -/
theorem ReachesIdle.eq_finish {n : Nat} {s : State} (h : ReachesIdle n s) : workStep^[n] s = finish s := by
  obtain ⟨hidle, hbusy⟩ := h
  have hkeep (j : Nat) (hj : j ≤ n) : finish (workStep^[j] s) = finish s := by
    induction j with
    | zero => rfl
    | succ j ih => rw [Function.iterate_succ_apply', finish_workStep (hbusy j hj), ih (by omega)]
  rw [← hkeep n le_rfl, finish_of_idle hidle]

/-- Each step makes at most one access. -/
theorem traceOf_iterate_workStep_length_le (n : Nat) (s : State) :
    (traceOf (workStep^[n] s).events).length ≤ (traceOf s.events).length + n := by
  induction n with
  | zero => simp
  | succ n ih =>
    rw [Function.iterate_succ_apply']
    cases hrow : phaseRow (workStep^[n] s).ph with
    | none => simp only [workStep, hrow]; omega
    | some row =>
      obtain ⟨ev, hev⟩ := PhaseRow.step_rowEvents hrow
      have hone := hev.access
      rw [workStep_of_phaseRow hrow, hev.happened]
      simp only [traceOf, List.filter_append, List.length_append] at *
      omega

/-! ### Runs of the machine and of one instruction -/

/-- `s` with other port values to come and another mark, the model's own fields (log 6, log 7). -/
def withHost (l : List HostInput) (m : Nat) (s : State) : State := { s with host := l, mark := m }

section
variable (l : List HostInput) (m : Nat) (s : State)

theorem leaveFor_withHost (q : Phase) : leaveFor q (withHost l m s) = withHost l m (leaveFor q s) := by
  cases q <;> rfl

theorem raiseTimeout_withHost (n : Cause) : raiseTimeout n (withHost l m s) = withHost l m (raiseTimeout n s) := by
  cases n <;> rfl

theorem pollStep_withHost (n : Cause) (q : Phase) :
    pollStep n (leaveFor q) (withHost l m s) = withHost l m (pollStep n (leaveFor q) s) := by
  rcases pollStep_cases n (leaveFor q) s with ⟨hc, h⟩ | ⟨hc, hf, h⟩ | ⟨hc, hf, h⟩ <;> rw [h]
  · rw [pollStep_timeout n _ (withHost l m s) hc, raiseTimeout_withHost]
  · rw [pollStep_ok n _ (withHost l m s) hc hf]
    exact leaveFor_withHost l m (regRead .CR s).2 q
  · exact pollStep_again n _ (withHost l m s) hc hf

/-- The work of a phase neither looks at the port values to come nor changes them. -/
theorem workStep_withHost : workStep (withHost l m s) = withHost l m (workStep s) := by
  cases hrow : phaseRow s.ph with
  | none => simp only [workStep, hrow, withHost]
  | some row =>
    rw [workStep_of_phaseRow (s := withHost l m s) hrow, workStep_of_phaseRow hrow]
    cases row with
    | write r v q => exact leaveFor_withHost l m (regWrite r (v s.cfg.raw s.arg) s) q
    | poll n q => exact pollStep_withHost l m s n q
    | trigger _ _ | readData => rfl

theorem iterate_workStep_withHost (n : Nat) : workStep^[n] (withHost l m s) = withHost l m (workStep^[n] s) :=
  Function.Commute.iterate_left (fun t => workStep_withHost l m t) n s

theorem hostErrWrite_beginStep (h : HostInput) :
    hostErrWrite h (beginStep s) = withHost s.host.tail s.events.length (hostErrWrite h s) := by
  unfold hostErrWrite
  split <;> rfl

end

theorem noReset_mono {n k : Nat} {s : State} (h : NoReset n s) (hk : k ≤ n) : NoReset k s :=
  fun x hx => h x ((List.take_prefix_take_left hk).subset hx)

/-- With no reset a busy machine runs through the work of its phases, whatever else the host drives. -/
theorem run_of_busy (n : Nat) (l : List HostInput) (m : Nat) {s : State} (hno : ∀ x ∈ l.take n, x.rst = false)
    (hbusy : ∀ j < n, (workStep^[j] s).ph ≠ .idle) :
    ∃ m', Sys2Proof.core.run n (withHost l m s) = .next (withHost (l.drop n) m' (workStep^[n] s)) := by
  induction n generalizing l m s with
  | zero => exact ⟨m, rfl⟩
  | succ n ih =>
    obtain ⟨hrst, htail⟩ : (hostNow (withHost l m s)).rst = false ∧ ∀ x ∈ l.tail.take n, x.rst = false := by
      cases l with
      | nil => simp [hostNow, withHost, quietInput]
      | cons x l => simpa [withHost, hostNow] using hno
    have hstep : step (withHost l m s) = .next (withHost l.tail s.events.length (workStep s)) := by
      rw [step_of_busy hrst (hbusy 0 n.succ_pos), ← workStep_withHost]
      rfl
    obtain ⟨m', hrest⟩ := ih l.tail s.events.length (s := workStep s) htail fun j hj => hbusy (j + 1) (by omega)
    rw [List.drop_tail] at hrest
    exact ⟨m', (run_succ_eq_next_iff Sys2Proof.core n _ _).mpr ⟨_, hstep, hrest⟩⟩

/-- With no reset an IDLE machine that is offered a command accepts it, after the write of ERR, and runs through its
phases. -/
theorem run_of_offer {i : Instr} {s : State} (hidle : s.ph = .idle) (hrst : (hostNow s).rst = false)
    (hvalid : (hostNow s).cmdValid = true) (hword : (hostNow s).cmdWord = encode i) {n : Nat}
    (hno : NoReset n (beginStep s))
    (hbusy : ∀ j < n, (workStep^[j] (accept (encode i) (hostErrWrite (hostNow s) s))).ph ≠ .idle) :
    ∃ m, Sys2Proof.core.run (n + 1) s =
      .next (withHost (s.host.drop (n + 1)) m (workStep^[n] (accept (encode i) (hostErrWrite (hostNow s) s)))) := by
  have hstep := step_of_offer i hidle hrst hvalid hword
  rw [hostErrWrite_beginStep] at hstep
  obtain ⟨m, hrest⟩ := run_of_busy n s.host.tail s.events.length hno hbusy
  rw [List.drop_tail] at hrest
  exact ⟨m, (run_succ_eq_next_iff Sys2Proof.core n s _).mpr ⟨_, hstep, hrest⟩⟩

/-- The work of a phase leads to a phase of the same command, or to IDLE. -/
theorem phaseOpcode_workStep {s : State} (hbusy : s.ph ≠ .idle) (hnext : (workStep s).ph ≠ .idle) :
    phaseOpcode (workStep s).ph = phaseOpcode s.ph := by
  have hnone : ∀ p : Phase, phaseOpcode p = none → p = .idle := by
    intro p; cases p <;> simp [phaseOpcode, inFlight]
  obtain ⟨row, hrow⟩ := phaseRow_of_ne_idle hbusy
  rw [workStep_of_phaseRow hrow] at hnext ⊢
  rcases row.step_ph s with hph | hph | hph
  · rw [hph]
  · rw [hph] at hnext ⊢
    exact (phaseOpcode_next hrow).resolve_left fun h => hnext (hnone _ h)
  · exact absurd hph hnext

/-- An instruction executed step by step in phases of its own opcode does the work of the phases. -/
theorem execSteps_of_busy {i : Instr} (n : Nat) {s : State} (hop : s.ph ≠ .idle → phaseOpcode s.ph = some (opcode i))
    (hbusy : ∀ j < n, (workStep^[j] s).ph ≠ .idle) : execSteps i n s = .next (workStep^[n] s) := by
  induction n generalizing s with
  | zero => rfl
  | succ n ih =>
    have hbusy0 : s.ph ≠ .idle := hbusy 0 n.succ_pos
    rw [execSteps_succ, stepOf_eq_workStep (hop hbusy0)]
    exact ih (fun hnext => (phaseOpcode_workStep hbusy0 hnext).trans (hop hbusy0)) fun j hj => hbusy (j + 1) (by omega)

/-! ### The events of a whole command -/

/-- `t` is reached from `s` by accesses alone, at least `lo` and at most `hi`. -/
structure OnlyAccesses (lo hi : Nat) (s t : State) : Prop where
  cfg : t.cfg = s.cfg
  events : ∃ acc, Claims.Happened s t acc ∧ (∀ e ∈ acc, isAccess e = true) ∧ lo ≤ acc.length ∧ acc.length ≤ hi

/-- `t` is reached from `s` by at least `lo` and at most `hi` accesses, then a timeout of one of `causes` or none, and then one
Done, with RES where `read` says so: the end of a command (40_sequencer_primitives.md R53, R57). -/
def Completes (read : Bool) (causes : List Cause) (lo hi : Nat) (s t : State) : Prop :=
  ∃ acc raised, Claims.Happened s t (acc ++ raised ++ [.done (if read then some t.res else none)]) ∧
    (∀ e ∈ acc, isAccess e = true) ∧ lo ≤ acc.length ∧ acc.length ≤ hi ∧
    (raised = [] ∨ ∃ n ∈ causes, raised = [.timeout n])

theorem OnlyAccesses.of_event {s t : State} {e : Event} (he : isAccess e = true) (hcfg : t.cfg = s.cfg)
    (h : t.events = s.events ++ [e]) : OnlyAccesses 1 1 s t :=
  ⟨hcfg, [e], h, by simpa using he, le_rfl, le_rfl⟩

theorem regWrite_onlyAccesses (r : PReg) (v : Byte) (s : State) : OnlyAccesses 1 1 s (regWrite r v s) :=
  .of_event rfl rfl rfl

theorem trigger_onlyAccesses (m : Byte) (s : State) : OnlyAccesses 1 1 s (trigger m s) := .of_event rfl rfl rfl

/-- A poll makes one read at least and CNT at most when it ends with `ok`, and CNT when it times out
(40_sequencer_primitives.md R55). -/
theorem poll_onlyAccesses (s : State) :
    OnlyAccesses (if (poll s).1 then 1 else s.cnt.toNat) s.cnt.toNat s (poll s).2 := by
  obtain ⟨rs, h, hok, htimeout⟩ := pollLoop_spec s.cnt.toNat s rfl
  refine ⟨(congrArg State.cfg h :), rs.map (.read .CR), (congrArg State.events h :), by simp [isAccess, isRead], ?_⟩
  rw [List.length_map, poll]
  cases hp : (pollLoop s.cnt.toNat s).1 with
  | true => exact hok hp
  | false => exact ⟨(htimeout hp).1.ge, (htimeout hp).1.le⟩

namespace Completes

variable {read : Bool} {causes : List Cause} {lo hi : Nat} {s t u : State}

theorem mono (h : Completes read causes lo hi s t) {lo' hi' : Nat} (hlo : lo' ≤ lo) (hhi : hi ≤ hi') :
    Completes read causes lo' hi' s t := by
  obtain ⟨acc, raised, hev, hacc, hl, hh, hraised⟩ := h
  exact ⟨acc, raised, hev, hacc, hlo.trans hl, hh.trans hhi, hraised⟩

theorem after {a b : Nat} (h : OnlyAccesses a b s t) (h' : Completes read causes lo hi t u) :
    Completes read causes (a + lo) (b + hi) s u := by
  obtain ⟨-, acc, hev, hacc, hlo, hhi⟩ := h
  obtain ⟨acc', raised, hev', hacc', hlo', hhi', hraised⟩ := h'
  refine ⟨acc ++ acc', raised, ?_, fun e he => ?_, ?_, ?_, hraised⟩
  · simp_all [Claims.Happened]
  · exact (List.mem_append.mp he).elim (hacc e) (hacc' e)
  · rw [List.length_append]; omega
  · rw [List.length_append]; omega

theorem complete (s : State) : Completes false causes 0 0 s (complete s) :=
  ⟨[], [], rfl, by simp, le_rfl, le_rfl, .inl rfl⟩

theorem readData (s : State) : Completes true causes 1 1 s (readData s) :=
  ⟨[.read .DR (regRead .DR s).1], [], by simp [Claims.Happened], by simp [isAccess, isRead], le_rfl, le_rfl, .inl rfl⟩

theorem raiseTimeout {n : Cause} (hn : n ∈ causes) (s : State) :
    Completes (causeIsRead n) causes 0 0 s (raiseTimeout n s) :=
  ⟨[], [.timeout n], by cases hread : causeIsRead n <;> simp [Claims.Happened, hread], by simp, le_rfl, le_rfl,
    .inr ⟨n, hn, rfl⟩⟩

/-- A trigger, its poll and what follows: with `ok` at least one read was made, and with the timeout TO_BUDGET ≥ 32. -/
theorem afterPoll_trigger {n : Cause} (hn : n ∈ causes) (hlo : lo ≤ 31) {ok : State → State} (m : Byte) (s : State)
    (hok : ∀ t, t.cfg = s.cfg → Completes (causeIsRead n) causes lo hi t (ok t)) :
    Completes (causeIsRead n) causes (lo + 2) (toBudget s.cfg.raw + 1 + hi) s (afterPoll n ok (trigger m s)) := by
  have hbudget := s.cfg.toBudget_ge
  have hcnt : (trigger m s).cnt.toNat = toBudget s.cfg.raw := s.cfg.toBudgetCount_toNat
  have hpoll := poll_onlyAccesses (trigger m s)
  have htrigger := trigger_onlyAccesses m s
  rw [hcnt] at hpoll
  rw [afterPoll_eq]
  split <;> rename_i hp
  · rw [if_pos hp] at hpoll
    exact (after htrigger (after hpoll (hok _ hpoll.cfg))).mono (by omega) (by omega)
  · rw [if_neg hp] at hpoll
    exact (after htrigger (after hpoll (raiseTimeout hn _))).mono (by omega) (by omega)

theorem initBody (s : State) : Completes false causes 3 3 s (initBody s) :=
  after (regWrite_onlyAccesses ..) (after (regWrite_onlyAccesses ..) (after (regWrite_onlyAccesses ..) (complete _)))

theorem stopBody (s : State) : Completes false causes 1 1 s (stopBody s) :=
  after (regWrite_onlyAccesses ..) (complete _)

theorem sendBody {n : Cause} (hn : n ∈ causes) (hread : causeIsRead n = false) (s : State) :
    Completes false causes 3 (toBudget s.cfg.raw + 2) s (sendBody n s) := by
  have hwrite := regWrite_onlyAccesses .DR s.arg s
  have hsend := afterPoll_trigger hn (by decide) (cwXfer s.cfg.raw) (regWrite .DR s.arg s)
    fun t _ => hread ▸ complete t
  exact hread ▸ (after hwrite hsend).mono le_rfl (by rw [regWrite_cfg]; omega)

theorem startBody (s : State) (hstart : Cause.start ∈ causes) (haddress : Cause.address ∈ causes) :
    Completes false causes 5 (2 * toBudget s.cfg.raw + 3) s (startBody s) := by
  have hsecond (t : State) (ht : t.cfg = s.cfg) :
      Completes false causes 3 (toBudget s.cfg.raw + 2) t (addressBody t) :=
    addressBody_eq_sendBody t ▸ ht ▸ sendBody haddress rfl t
  rw [startBody_eq]
  exact (afterPoll_trigger hstart (by decide) (cwStart s.cfg.raw) s hsecond).mono le_rfl (by omega)

theorem readBody {n : Cause} (hn : n ∈ causes) (hread : causeIsRead n = true) (m : Byte) (s : State) :
    Completes true causes 3 (toBudget s.cfg.raw + 2) s (afterPoll n Machine.readData (trigger m s)) := by
  have h := afterPoll_trigger hn (by decide) m s fun t _ => hread ▸ readData t
  exact hread ▸ h

end Completes

/-- The events of a whole command: the accept, the accesses within the bounds of R61, at most one timeout, of one of the
command's own causes, and one Done. -/
theorem commandEffect_completes (i : Instr) (s : State) :
    Completes (isReadCommand i) (causesOf i) (minAccesses i) (maxAccesses (toBudget s.cfg.raw) i)
      (accept (encode i) s) (commandEffect i s) := by
  cases i with
  | init _ | txStart _ => exact .initBody _
  | start _ | txAddress _ => exact .startBody _ (by simp [causesOf]) (by simp [causesOf])
  | stop _ | txStop _ => exact .stopBody _
  | byte _ | txByte _ => exact .sendBody (by simp [causesOf]) rfl _
  | readAck _ | readNack _ => exact .readBody (by simp [causesOf]) rfl _ _

/-- The same, with the accept among the events. -/
theorem commandEffect_events (i : Instr) (s : State) : ∃ acc raised,
    Claims.Happened s (commandEffect i s) (.accept (encode i) :: acc ++ raised ++
      [.done (if isReadCommand i then some (commandEffect i s).res else none)]) ∧
    (∀ e ∈ acc, isAccess e = true) ∧ minAccesses i ≤ acc.length ∧ acc.length ≤ maxAccesses (toBudget s.cfg.raw) i ∧
    (raised = [] ∨ ∃ n ∈ causesOf i, raised = [.timeout n]) := by
  obtain ⟨acc, raised, hev, hrest⟩ := commandEffect_completes i s
  exact ⟨acc, raised, by simpa [Claims.Happened] using hev, hrest⟩

/-! ### The logical transaction state -/

/-- Accesses say nothing of TXN. -/
theorem foldl_protocolNext_accesses {acc : List Event} (h : ∀ e ∈ acc, isAccess e = true) (p : Protocol) :
    acc.foldl protocolNext p = p := by
  induction acc with
  | nil => rfl
  | cons e acc ih =>
    obtain ⟨he, hacc⟩ := List.forall_mem_cons.mp h
    have hkeep : protocolNext p e = p := by rcases (isAccess_iff e).mp he with ⟨r, v, rfl⟩ | ⟨r, v, rfl⟩ <;> rfl
    rw [List.foldl_cons, hkeep, ih hacc]

/-- TXN after a whole command depends on TXN before it, the opcode, and whether the command timed out
(40_sequencer_primitives.md R60). -/
theorem commandEffect_txn (i : Instr) (s : State) :
    ∃ ev timedOut, Claims.Happened s (commandEffect i s) ev ∧ (timedOut = true ↔ ∃ n ∈ causesOf i, .timeout n ∈ ev) ∧
      (protocolOf (commandEffect i s).events).txn = txnAfter (opcode i) timedOut (protocolOf s.events).txn := by
  obtain ⟨acc, raised, hev, hacc, -, -, hraised⟩ := commandEffect_events i s
  have hnot (n : Cause) : Event.timeout n ∉ acc := fun hmem => nomatch hacc _ hmem
  refine ⟨_, !raised.isEmpty, hev, ?_, ?_⟩
  · rcases hraised with rfl | ⟨n, hn, rfl⟩
    · simp [hnot]
    · simpa using ⟨n, hn, by simp⟩
  · rw [hev, protocolOf_append]
    rcases hraised with rfl | ⟨n, -, rfl⟩ <;> simp [foldl_protocolNext_accesses hacc, protocolNext]

/-! ### A whole command as a run of the phase table -/

theorem firstPhase_ne_idle (i : Instr) : firstPhase (opcode i) ≠ .idle := by
  cases i <;> simp [firstPhase, opcode]

/-- After the accept a command takes a number of steps within the bounds of R61 to IDLE, where the state is the one its
pseudocode gives. The lower bound is that of the accesses, of which a step makes at most one. -/
theorem commandEffect_run (i : Instr) (s : State) :
    ∃ n, minSteps i ≤ n ∧ n ≤ maxSteps (toBudget s.cfg.raw) i ∧ ReachesIdle n (accept (encode i) s) ∧
      workStep^[n] (accept (encode i) s) = commandEffect i s := by
  have hfinish : finish (accept (encode i) s) = commandEffect i s := by
    rw [finish_of_busy (by simpa using firstPhase_ne_idle i), commandEffect, commandBody_eq_restFrom, accept_ph,
      opField_encode]
  obtain ⟨n, hn, hreach⟩ := exists_reachesIdle (accept (encode i) s)
  have hend := hreach.eq_finish.trans hfinish
  refine ⟨n, ?_, hn.trans ?_, hreach, hend⟩
  · obtain ⟨acc, raised, hev, hacc, hlo, -⟩ := commandEffect_completes i s
    have hcount := traceOf_iterate_workStep_length_le n (accept (encode i) s)
    rw [hend, hev] at hcount
    simp only [traceOf, List.filter_append, List.length_append, List.filter_eq_self.mpr hacc] at hcount
    rw [minAccesses] at hlo
    omega
  · rw [stepsLeft_of_no_poll (by simpa using phaseCause_firstPhase i), accept_ph, opField_encode]
    cases i <;> exact le_rfl

end Sys2Proof.Machine

namespace Sys2Proof.Proofs

open Sys2Proof Sys2Proof.Machine

/-- Settles O38: the clear answers are read off one by one, and then the flag or CNT = 0 ends the poll. -/
theorem pollReadsUntilTheFlagOrTheBudget : Obligations.PollReadsUntilTheFlagOrTheBudget := by
  intro s pre rest hclear
  refine ⟨fun v hlt hv => ⟨?_, by omega⟩, fun hlength => ?_⟩
  · obtain ⟨k, hk⟩ : ∃ k, s.cnt.toNat = pre.length + (k + 1) := Nat.exists_eq_add_of_lt hlt
    have hcnt : s.cnt - BitVec.ofNat 17 pre.length = BitVec.ofNat 17 (s.cnt.toNat - (pre.length + 1) + 1) := by
      have hlt17 := s.cnt.isLt
      apply BitVec.eq_of_toNat_eq
      rw [BitVec.toNat_sub, BitVec.toNat_ofNat, BitVec.toNat_ofNat]
      omega
    have hpoll : poll { s with env := .free (pre ++ v :: rest) } =
        pollLoop (pre.length + (k + 1)) { s with env := .free (pre ++ v :: rest) } := by rw [poll, ← hk]
    rw [hpoll, pollLoop_clear (k + 1) (v :: rest) hclear]
    refine (pollLoop_ok k (by exact hv)).trans ?_
    simp [regRead, emit, envAnswer, hcnt]
  · have hcnt : s.cnt - BitVec.ofNat 17 pre.length = 0#17 := by rw [hlength]; simp
    rw [poll, ← hlength]
    refine (pollLoop_clear 0 rest hclear).trans ?_
    rw [hcnt, pollLoop]

/-- Settles O39: the accept, and then the work of the command's own phases. -/
theorem commandStepsAreItsPseudocode : Obligations.CommandStepsAreItsPseudocode := by
  intro i s hidle
  obtain ⟨n, hmin, hmax, ⟨hend, hbusy⟩, heffect⟩ := commandEffect_run i s
  refine ⟨n, hmin, hmax, ?_, heffect ▸ hend⟩
  have hop : phaseOpcode (accept (encode i) s).ph = some (opcode i) := by simpa using phaseOpcode_firstPhase i
  rw [execSteps_succ, stepOf_idle i s hidle, execSteps_of_busy n (fun _ => hop) hbusy, heffect]

/-- Settles O40: the accept step performs the ERR write first, and the busy steps look at no port but `rst`. -/
theorem runOfACommandIsItsPseudocode : Obligations.RunOfACommandIsItsPseudocode := by
  intro i s hidle hrst hvalid hword hno
  have hcfg : (hostErrWrite (hostNow s) s).cfg = s.cfg := hostErrWrite_cfg _ s
  obtain ⟨n, hmin, hmax, ⟨-, hbusy⟩, heffect⟩ := commandEffect_run i (hostErrWrite (hostNow s) s)
  rw [hcfg] at hmax
  have hrun {j : Nat} (hj : j ≤ n) := run_of_offer hidle hrst hvalid hword (noReset_mono hno (hj.trans hmax))
    fun k hk => hbusy k (hk.trans_le hj)
  obtain ⟨m, hm⟩ := hrun le_rfl
  refine ⟨n, m, hmin, hmax, heffect ▸ hm, fun j t hpos hj ht => ?_⟩
  obtain ⟨k, rfl⟩ : ∃ k, j = k + 1 := Nat.exists_eq_succ_of_ne_zero hpos.ne'
  obtain ⟨m', hm'⟩ := hrun (Nat.le_of_succ_le hj)
  cases hm'.symm.trans ht
  exact hbusy k hj

/-- Settles O41: the steps left go down with each step, and are at most 2·TO_BUDGET + 4 as CNT is at most TO_BUDGET. -/
theorem busyBlockComesBackToIdle : Obligations.BusyBlockComesBackToIdle := by
  intro s hinv hbusy hno
  have hbound : stepsLeft s ≤ 2 * toBudget s.cfg.raw + 4 := by
    have hcnt := hinv.cnt_le
    have hphase := phaseSteps_add_le (toBudget s.cfg.raw) s.ph
    have hreads : (if phaseCause s.ph = none then 0 else s.cnt.toNat) ≤
        if phaseCause s.ph = none then 0 else toBudget s.cfg.raw := by split <;> omega
    exact (Nat.add_le_add_left hreads _).trans hphase
  obtain ⟨n, hn, hidle, hbefore⟩ := exists_reachesIdle s
  obtain ⟨m, hrun⟩ := run_of_busy n s.host s.mark (noReset_mono hno (hn.trans hbound)) hbefore
  refine ⟨n, _, Nat.pos_of_ne_zero ?_, hn.trans hbound, hrun, hidle⟩
  rintro rfl
  exact hbusy hidle

/-- Settles O42: the accesses of a command are all its events but the accept, the timeout and the Done. -/
theorem commandAccessesAreBounded : Obligations.CommandAccessesAreBounded := by
  intro i s
  obtain ⟨acc, raised, hev, hacc, hlo, hhi, hraised⟩ := commandEffect_events i s
  have htrace : acc.filter isAccess = acc := List.filter_eq_self.mpr hacc
  refine ⟨_, hev, ?_⟩
  rcases hraised with rfl | ⟨n, -, rfl⟩ <;>
    simpa [traceOf, htrace, isAccess, isWrite, isRead] using ⟨hlo, hhi⟩

/-- Settles O44: neither an access nor a timeout is a Done. -/
theorem commandSignalsDoneOnceAndLast : Obligations.CommandSignalsDoneOnceAndLast := by
  intro i s
  obtain ⟨acc, raised, hev, hacc, -, -, hraised⟩ := commandEffect_events i s
  have hnone : acc.filter isDone = [] := by
    refine List.filter_eq_nil_iff.mpr fun e he => ?_
    rcases (isAccess_iff e).mp (hacc e he) with ⟨r, v, rfl⟩ | ⟨r, v, rfl⟩ <;> simp [isDone]
  refine ⟨_, hev, ?_, List.getLast?_concat⟩
  rcases hraised with rfl | ⟨n, -, rfl⟩ <;> simp [hnone, isDone]

/-- Settles O50: a START's own causes are those of its two polls, and a STOP has none. -/
theorem transactionStateFollowsTheHistory : Obligations.TransactionStateFollowsTheHistory := by
  intro s x
  refine ⟨?_, ?_⟩
  · obtain ⟨ev, timedOut, hev, htimedOut, htxn⟩ := commandEffect_txn (.start x) s
    have hcauses : timedOut = true ↔ .timeout .start ∈ ev ∨ .timeout .address ∈ ev := by
      simpa [causesOf] using htimedOut
    refine ⟨ev, hev, fun hidle => ?_, fun hstarted hstart haddress => ?_⟩
    · simp only [htxn, hidle, ← hcauses]
      cases timedOut <;> rfl
    · have hnot : timedOut = false := by simpa [hstart, haddress] using hcauses
      rw [htxn, hstarted, hnot]
      rfl
  · obtain ⟨ev, timedOut, -, -, htxn⟩ := commandEffect_txn (.stop x) s
    rw [htxn]
    cases timedOut <;> cases (protocolOf s.events).txn <;> rfl

end Sys2Proof.Proofs
end

section
/-! SUPPORT. The family of 41_init.md: one exec of an instruction, in IDLE and in each phase of its own (R62, R68; R52, R58),
and what every instruction leaves unchanged. -/

namespace Sys2Proof.Machine

/-! ### One exec of an instruction -/

/-- Accepting the word of an instruction (40_sequencer_primitives.md R52). -/
theorem accept_encode (i : Instr) (s : State) :
    accept (encode i) s =
      { s with op := opcode i, arg := operand i, ph := firstPhase (opcode i),
               events := s.events ++ [.accept (encode i)] } := by
  simp [accept, emit]

theorem exec_of_idle (i : Instr) {s : State} (h : s.ph = .idle) : exec i s = .next (accept (encode i) s) := by
  rw [exec_eq_next, stepOf_idle i s h]

/-- The last write of a command, with its completion (40_sequencer_primitives.md R53). -/
theorem complete_regWrite (r : PReg) (v : Byte) (s : State) :
    complete (regWrite r v s) = { s with ph := .idle, events := s.events ++ [.write r v, .done none] } := by
  simp [complete, goto, regWrite, emit]

theorem exists_phaseRow_of_phaseOpcode {p : Phase} {o : BitVec 3} (h : phaseOpcode p = some o) :
    ∃ row, phaseRow p = some row := by
  refine phaseRow_of_ne_idle ?_
  rintro rfl
  cases h

/-- In a phase of its own opcode an instruction does the work of the phase's row. -/
theorem exec_of_phaseRow {i : Instr} {p : Phase} {row : PhaseRow} (hop : phaseOpcode p = some (opcode i))
    (hrow : phaseRow p = some row) {s : State} (hp : s.ph = p) : exec i s = .next (row.step s) := by
  subst hp
  rw [exec_eq_next, stepOf_eq_workStep hop, workStep_of_phaseRow hrow]

/-- All an exec can do: accept, the row of a phase of its own opcode, or nothing (log 8). -/
theorem exec_cases {i : Instr} {s t : State} (h : exec i s = .next t) :
    (s.ph = .idle ∧ t = accept (encode i) s) ∨
    (∃ row, phaseRow s.ph = some row ∧ phaseOpcode s.ph = some (opcode i) ∧ t = row.step s) ∨
    t = s := by
  rcases stepOf_phase_cases i s with hidle | hop | hnothing
  · rw [exec_of_idle i hidle] at h
    cases h
    exact .inl ⟨hidle, rfl⟩
  · obtain ⟨row, hrow⟩ := exists_phaseRow_of_phaseOpcode hop
    rw [exec_of_phaseRow hop hrow rfl] at h
    cases h
    exact .inr (.inl ⟨row, hrow, hop, rfl⟩)
  · rw [exec_eq_next, hnothing] at h
    cases h
    exact .inr (.inr rfl)

/-! ### The rows of one command -/

@[simp] theorem causesOf_delegate (i : Instr) : causesOf (delegate i) = causesOf i := by cases i <;> rfl

@[simp] theorem isReadCommand_delegate (i : Instr) : isReadCommand (delegate i) = isReadCommand i := by cases i <;> rfl

/-- In a phase of its own opcode the command in flight is the instruction's delegate. -/
theorem inFlight_of_phaseOpcode {i : Instr} {p : Phase} (h : phaseOpcode p = some (opcode i)) :
    inFlight p (operand i) = some (delegate i) := by
  obtain ⟨row, hrow⟩ := exists_phaseRow_of_phaseOpcode h
  obtain ⟨j, hj, -⟩ := inFlight_of_phaseRow hrow (operand i)
  obtain ⟨hwf, harg, hop⟩ := fields_of_inFlight hj
  rw [hj, eq_delegate_of_fields hwf (Option.some.inj (hop.symm.trans h)) harg]

/-- What a row may be among the rows of a command that can raise `causes` and returns a byte when `reads`: only a command
with causes has rows other than writes, its polls raise those causes, and only a read command zeroes or reads RES. -/
def PhaseRow.IsRowOf (causes : List Cause) (reads : Bool) : PhaseRow → Prop
  | .write _ _ _ => True
  | .trigger _ _ => causes ≠ []
  | .poll n _ => n ∈ causes ∧ causeIsRead n = reads
  | .readData => causes ≠ [] ∧ reads = true

theorem isRowOf_of_phaseRow {i : Instr} {p : Phase} {row : PhaseRow} (hrow : phaseRow p = some row)
    (hop : phaseOpcode p = some (opcode i)) : row.IsRowOf (causesOf i) (isReadCommand i) := by
  have hi := inFlight_of_phaseOpcode hop
  rw [← causesOf_delegate, ← isReadCommand_delegate]
  generalize delegate i = j at hi ⊢
  cases p <;> cases hrow <;> cases hi <;> simp [PhaseRow.IsRowOf, causesOf, isReadCommand, causeIsRead]

/-! ### What a row leaves unchanged -/

@[simp] theorem leaveFor_res (q : Phase) (s : State) : (leaveFor q s).res = s.res := by cases q <;> rfl
@[simp] theorem leaveFor_host (q : Phase) (s : State) : (leaveFor q s).host = s.host := by cases q <;> rfl
@[simp] theorem leaveFor_env (q : Phase) (s : State) : (leaveFor q s).env = s.env := by cases q <;> rfl
@[simp] theorem leaveFor_draws (q : Phase) (s : State) : (leaveFor q s).draws = s.draws := by cases q <;> rfl

namespace PhaseRow

variable {row : PhaseRow} {causes : List Cause} {reads : Bool}

theorem step_host (row : PhaseRow) (s : State) : (row.step s).host = s.host := by
  cases row with
  | write r v q => simp [step]
  | trigger m q => simp [step]
  | poll n q => rcases pollStep_cases n (leaveFor q) s with ⟨-, h⟩ | ⟨-, -, h⟩ | ⟨-, -, h⟩ <;> simp [step, h]
  | readData => simp [step]

/-- Only a row of a read command changes RES (10_state.md R19). -/
theorem IsRowOf.step_res (hrow : row.IsRowOf causes false) (s : State) : (row.step s).res = s.res := by
  cases row with
  | write r v q => simp [step]
  | trigger m q => simp [step]
  | poll n q =>
    obtain ⟨-, hread⟩ := hrow
    rcases pollStep_cases n (leaveFor q) s with ⟨-, h⟩ | ⟨-, -, h⟩ | ⟨-, -, h⟩ <;> simp [step, h, hread]
  | readData => cases hrow.2

/-- The row of a command with no causes is a plain write: it leaves CNT, ERR and the peripheral's answers. -/
theorem IsRowOf.step_of_no_causes (hrow : row.IsRowOf [] reads) (s : State) :
    (row.step s).cnt = s.cnt ∧ (row.step s).env = s.env ∧ (row.step s).draws = s.draws ∧ (row.step s).err = s.err := by
  cases row with
  | write r v q => simp [step]
  | trigger m q => exact absurd rfl hrow
  | poll n q => cases hrow.1
  | readData => exact absurd rfl hrow.1

/-- ERR is kept, or one of the command's own causes is set (10_state.md R15, 60_exceptions.md R72). -/
theorem IsRowOf.step_err (hrow : row.IsRowOf causes reads) (s : State) :
    (row.step s).err = s.err ∨ ∃ n ∈ causes, (row.step s).err = errSet s.err n := by
  rcases PhaseRow.step_err row s with herr | ⟨n, q, rfl, -, herr⟩
  · exact .inl herr
  · exact .inr ⟨n, hrow.1, herr⟩

end PhaseRow

/-! ### The bits of ERR an instruction can set -/

/-- The bits of an instruction's own causes cover the bit of each. -/
theorem errMask_and_not_causes {i : Instr} {n : Cause} (h : n ∈ causesOf i) :
    errMask n &&& ~~~((causesOf i).foldl (fun m n => m ||| errMask n) 0#8) = 0#8 := by
  have hall : ∀ l ∈ [[], [.start, .address], [.byte], [.readAck], [.readNack]], ∀ n ∈ l,
      errMask n &&& ~~~(l.foldl (fun m n => m ||| errMask n) 0#8) = 0#8 := by decide
  exact hall _ (by cases i <;> simp [causesOf]) n h

/-- Setting a flag changes no bit outside a mask that covers the flag. -/
theorem errSet_xor_and_not {n : Cause} {mask : Byte} (h : errMask n &&& ~~~mask = 0#8) (e : Byte) :
    (errSet e n ^^^ e) &&& ~~~mask = 0#8 := by
  have hchanged : errSet e n ^^^ e = ~~~e &&& errMask n := by
    ext k hk
    simp only [errSet, BitVec.getElem_xor, BitVec.getElem_or, BitVec.getElem_and, BitVec.getElem_not]
    cases e[k] <;> simp
  rw [hchanged, BitVec.and_assoc, h, BitVec.and_zero]

end Sys2Proof.Machine

namespace Sys2Proof.Proofs

open Sys2Proof Sys2Proof.Machine

/-- Settles O18: an accept latches the word's fields, and I1, I2, I3 are plain writes, the last with the completion. -/
theorem initRunsItsPhases : Obligations.InitRunsItsPhases := by
  intro i g s hi
  obtain ⟨hop, harg⟩ : opcode i = 0#3 ∧ operand i = g := by rcases hi with rfl | rfl <;> exact ⟨rfl, rfl⟩
  have hexec {p : Phase} {row : PhaseRow} (hown : phaseOpcode p = some 0#3) (hrow : phaseRow p = some row)
      (hp : s.ph = p) : exec i s = .next (row.step s) := exec_of_phaseRow (hop ▸ hown) hrow hp
  refine ⟨fun hp => ?_, fun hp => (hexec rfl rfl hp).trans rfl, fun hp => (hexec rfl rfl hp).trans rfl, fun hp => ?_⟩
  · rw [exec_of_idle i hp, accept_encode, encode, hop, harg]
    rfl
  · rw [hexec rfl rfl hp]
    exact congrArg Host.Outcome.next (complete_regWrite .CR (cwEnable s.cfg.raw) s)

/-- Settles O26: an exec is an accept, a row of the instruction's own command, or nothing. -/
theorem execFrame : Obligations.ExecFrame := by
  intro i s t hst
  rcases exec_cases hst with ⟨hidle, rfl⟩ | ⟨row, hrow, hop, rfl⟩ | rfl
  · exact ⟨rfl, rfl, rfl, fun hbusy => absurd hidle hbusy, fun _ => rfl, by simp, fun _ => ⟨rfl, rfl, rfl, rfl⟩,
      _, rfl, Nat.zero_le _⟩
  · have hown := isRowOf_of_phaseRow hrow hop
    obtain ⟨hop', harg, hcfg, hmark⟩ := row.step_frame s
    obtain ⟨ev, hev⟩ := PhaseRow.step_rowEvents hrow
    refine ⟨hcfg, row.step_host s, hmark, fun _ => ⟨hop', harg⟩, fun hread => ?_, ?_, fun hnone => ?_,
      ev, hev.happened, hev.access⟩
    · rw [hread] at hown
      exact hown.step_res s
    · rcases hown.step_err s with herr | ⟨n, hn, herr⟩
      · simp [herr]
      · exact herr ▸ errSet_xor_and_not (errMask_and_not_causes hn) s.err
    · rw [hnone] at hown
      exact hown.step_of_no_causes s
  · exact ⟨rfl, rfl, rfl, fun _ => ⟨rfl, rfl⟩, fun _ => rfl, by simp, fun _ => ⟨rfl, rfl, rfl, rfl⟩,
      [], by simp [Claims.Happened], Nat.zero_le _⟩

end Sys2Proof.Proofs
end

section
/-! SUPPORT. The family of 42_start_stop.md: START and STOP, in IDLE and in each phase of their own (R63, R64, R69, R71), from
what an accept, a poll row and a timeout answer. -/

namespace Sys2Proof.Machine

/-! ### Accept, timeout and poll, each with the whole next state -/

/-- In IDLE an instruction latches its opcode and its byte and goes to its first phase (40_sequencer_primitives.md R52). -/
theorem exec_of_idle_fields {i : Instr} {o : BitVec 3} {x : Byte} (hop : opcode i = o) (harg : operand i = x) {s : State}
    (h : s.ph = .idle) : exec i s = .next { s with
      op := o, arg := x, ph := firstPhase o, events := s.events ++ [.accept (o ++ x)] } := by
  subst hop harg
  rw [exec_of_idle i h, accept_encode]
  rfl

/-- `raise Timeout(n)` (40_sequencer_primitives.md R57). -/
theorem raiseTimeout_eq (n : Cause) (s : State) :
    raiseTimeout n s = { s with
      err := errSet s.err n, res := if causeIsRead n then 0x00#8 else s.res, ph := .idle,
      events := s.events ++ [.timeout n, .done (if causeIsRead n then some 0x00#8 else none)] } := by
  cases n <;> simp [raiseTimeout, causeIsRead, completeRead, complete, goto, emit]

/-- In a phase of its opcode an instruction does the work of the phase's row (40_sequencer_primitives.md R58). -/
theorem exec_of_opcode_row {i : Instr} {o : BitVec 3} {p : Phase} {row : PhaseRow} (hop : opcode i = o)
    (hown : phaseOpcode p = some o) (hrow : phaseRow p = some row) {s : State} (hp : s.ph = p) :
    exec i s = .next (row.step s) :=
  exec_of_phaseRow (hop ▸ hown) hrow hp

/-- In a poll phase of its opcode an instruction takes one of the three ways of a poll step (40_sequencer_primitives.md
R56). -/
theorem pollsIn_of_opcode_row {i : Instr} {o : BitVec 3} {p : Phase} {n : Cause} {q : Phase} (hop : opcode i = o)
    (hown : phaseOpcode p = some o) (hrow : phaseRow p = some (.poll n q)) (s : State) :
    Claims.PollsIn i p s (raiseTimeout n s) (leaveFor q) := by
  intro hp
  have hexec : exec i s = .next (pollStep n (leaveFor q) s) := exec_of_opcode_row hop hown hrow hp
  refine ⟨fun hc => ?_, fun hc v t hread => ?_⟩
  · rw [hexec, pollStep_timeout n _ s hc]
  · obtain rfl : (regRead .CR s).1 = v := congrArg Prod.fst hread
    obtain rfl : (regRead .CR s).2 = t := congrArg Prod.snd hread
    rw [hexec]
    change _ = Host.Outcome.next (if flagSet s.cfg.raw (regRead .CR s).1 then _ else _)
    cases hflag : flagSet s.cfg.raw (regRead .CR s).1 with
    | true => rw [pollStep_ok n _ s hc hflag, if_pos rfl]
    | false => rw [pollStep_again n _ s hc hflag, if_neg Bool.false_ne_true]

end Sys2Proof.Machine

namespace Sys2Proof.Proofs

open Sys2Proof Sys2Proof.Machine

/-- Settles O19: S1 and S4 are triggers, S3 is a plain write, and S2 and S5 poll, each with its own cause. -/
theorem startRunsItsPhases : Obligations.StartRunsItsPhases := by
  intro i a s hi
  obtain ⟨hop, harg⟩ : opcode i = 1#3 ∧ operand i = a := by rcases hi with rfl | rfl <;> exact ⟨rfl, rfl⟩
  have hstart := pollsIn_of_opcode_row (p := .s2) hop rfl rfl s
  have haddress := pollsIn_of_opcode_row (p := .s5) hop rfl rfl s
  rw [raiseTimeout_eq] at hstart haddress
  exact ⟨exec_of_idle_fields hop harg, fun hp => (exec_of_opcode_row hop rfl rfl hp).trans rfl, hstart,
    fun hp => (exec_of_opcode_row hop rfl rfl hp).trans rfl, fun hp => (exec_of_opcode_row hop rfl rfl hp).trans rfl,
    haddress⟩

/-- Settles O20: P1 is a plain write with the completion. -/
theorem stopRunsItsPhases : Obligations.StopRunsItsPhases := by
  intro i g s hi
  obtain ⟨hop, harg⟩ : opcode i = 2#3 ∧ operand i = g := by rcases hi with rfl | rfl <;> exact ⟨rfl, rfl⟩
  refine ⟨exec_of_idle_fields hop harg, fun hp => ?_⟩
  rw [exec_of_opcode_row hop rfl rfl hp]
  exact congrArg Host.Outcome.next (complete_regWrite .CR (cwStop s.cfg.raw) s)

end Sys2Proof.Proofs
end

section
/-! SUPPORT. The family of 43_byte.md: BYTE, in IDLE and in each phase of its own (R65, R70; R52, R56, R58). -/

namespace Sys2Proof.Proofs

open Sys2Proof Sys2Proof.Machine

/-- Settles O21: B1 is a plain write of the latched byte, B2 is a trigger, and B3 polls with cause 2. -/
theorem byteRunsItsPhases : Obligations.ByteRunsItsPhases := by
  intro i d s hi
  obtain ⟨hop, harg⟩ : opcode i = 3#3 ∧ operand i = d := by rcases hi with rfl | rfl <;> exact ⟨rfl, rfl⟩
  have hpoll := pollsIn_of_opcode_row (p := .b3) hop rfl rfl s
  rw [raiseTimeout_eq] at hpoll
  exact ⟨exec_of_idle_fields hop harg, fun hp => (exec_of_opcode_row hop rfl rfl hp).trans rfl,
    fun hp => (exec_of_opcode_row hop rfl rfl hp).trans rfl, hpoll⟩

end Sys2Proof.Proofs
end

section
/-! SUPPORT. The family of 44_read.md: READACK and READNACK, in IDLE and in each phase of their own (R66, R67; R52, R56, R58),
from what the read of DR answers. -/

namespace Sys2Proof.Machine

/-- The read of DR that ends a read command, with its completion (40_sequencer_primitives.md R53). -/
theorem readData_of_regRead {s t : State} {v : Byte} (h : regRead .DR s = (v, t)) :
    readData s = { t with res := v, ph := .idle, events := t.events ++ [.done (some v)] } := by
  simp [readData, h, completeRead, goto, emit]

/-- In the last phase of a read command of its opcode an instruction returns the byte DR answers. -/
theorem exec_of_readData_row {i : Instr} {o : BitVec 3} {p : Phase} (hop : opcode i = o) (hown : phaseOpcode p = some o)
    (hrow : phaseRow p = some .readData) {s : State} (hp : s.ph = p) (v : Byte) (t : State)
    (hread : regRead .DR s = (v, t)) :
    exec i s = .next { t with res := v, ph := .idle, events := t.events ++ [.done (some v)] } := by
  rw [exec_of_opcode_row hop hown hrow hp, PhaseRow.step, readData_of_regRead hread]

end Sys2Proof.Machine

namespace Sys2Proof.Proofs

open Sys2Proof Sys2Proof.Machine

/-- Settles O22: A1 is a trigger with the acknowledge bit, A2 polls with cause 3, and A3 reads DR. -/
theorem readAckRunsItsPhases : Obligations.ReadAckRunsItsPhases := by
  intro g s
  have hop : opcode (.readAck g) = 4#3 := rfl
  have hpoll := pollsIn_of_opcode_row (p := .a2) hop rfl rfl s
  rw [raiseTimeout_eq] at hpoll
  exact ⟨exec_of_idle_fields hop rfl, fun hp => (exec_of_opcode_row hop rfl rfl hp).trans rfl, hpoll,
    exec_of_readData_row hop rfl rfl⟩

/-- Settles O23: N1 is a trigger without the acknowledge bit, N2 polls with cause 4, and N3 reads DR. -/
theorem readNackRunsItsPhases : Obligations.ReadNackRunsItsPhases := by
  intro g s
  have hop : opcode (.readNack g) = 5#3 := rfl
  have hpoll := pollsIn_of_opcode_row (p := .n2) hop rfl rfl s
  rw [raiseTimeout_eq] at hpoll
  exact ⟨exec_of_idle_fields hop rfl, fun hp => (exec_of_opcode_row hop rfl rfl hp).trans rfl, hpoll,
    exec_of_readData_row hop rfl rfl⟩

end Sys2Proof.Proofs
end

section
/-! SUPPORT. The family of 45_aliases.md: a command keeps its meaning when it is spelled as its delegate, step by step and
as a whole (R68 to R71). -/

namespace Sys2Proof.Machine

@[simp] theorem exec_delegate (i : Instr) (s : State) : exec (delegate i) s = exec i s := by
  rw [exec_eq_next, exec_eq_next, stepOf_delegate]

@[simp] theorem commandBody_delegate (i : Instr) (s : State) : commandBody (delegate i) s = commandBody i s := by
  cases i <;> rfl

@[simp] theorem commandEffect_delegate (i : Instr) (s : State) : commandEffect (delegate i) s = commandEffect i s := by
  rw [commandEffect, commandEffect, encode_delegate, commandBody_delegate]

end Sys2Proof.Machine

namespace Sys2Proof.Proofs

open Sys2Proof Sys2Proof.Machine

/-- Settles O24: every instruction agrees with its delegate, and each alias names its delegate. -/
theorem aliasesAreTheirDelegates : Obligations.AliasesAreTheirDelegates := by
  intro x s
  have hagree (i : Instr) : encode i = encode (delegate i) ∧ exec i s = exec (delegate i) s ∧
      commandEffect i s = commandEffect (delegate i) s :=
    ⟨(encode_delegate i).symm, (exec_delegate i s).symm, (commandEffect_delegate i s).symm⟩
  exact ⟨hagree (.txStart x), hagree (.txAddress x), hagree (.txByte x), hagree (.txStop x)⟩

end Sys2Proof.Proofs
end

section
/-! SUPPORT. The family of 60_exceptions.md: the host's side of ERR (R79, R80), and the ERR bits a whole command sets, which
are those of the timeouts among its events (R72, R76). -/

namespace Sys2Proof.Machine

/-! ### The host's side of ERR -/

/-- What the host's write leaves in ERR: its bits 4..0 below three zeros (60_exceptions.md R80). -/
theorem errWritten_eq_append (v : Byte) : errWritten v = 0#3 ++ v.extractLsb' 0 5 := by
  have hmask : errDefined = 0#3 ++ BitVec.allOnes 5 := rfl
  have hsplit : v.extractLsb' 5 3 ++ v.extractLsb' 0 5 = v := by
    rw [BitVec.extractLsb'_append_extractLsb'_eq_extractLsb' (Nat.zero_add 5).symm]
    simp
  calc
    errWritten v = (v.extractLsb' 5 3 ++ v.extractLsb' 0 5) &&& (0#3 ++ BitVec.allOnes 5) := by
      rw [errWritten, hmask, hsplit]
    _ = 0#3 ++ v.extractLsb' 0 5 := by rw [BitVec.and_append, BitVec.and_zero, BitVec.and_allOnes]

/-- With bits 7..5 at 0 the five defined bits are all of ERR (10_state.md R14; log 19). -/
theorem errPort_of_reserved {s : State} (h : s.err &&& 0xE0#8 = 0#8) : errPort s = s.err := calc
  errPort s = s.err &&& 0xE0#8 ||| s.err &&& errDefined := by rw [h, BitVec.zero_or, errPort]
  _ = s.err &&& BitVec.allOnes 8 := BitVec.and_or_distrib_left.symm
  _ = s.err := BitVec.and_allOnes

/-! ### ERR and the timeouts of a command -/

/-- The cause that a timeout event records (log 7). -/
def timeoutCause : Event → Option Cause
  | .timeout n => some n
  | _ => none

/-- The causes of the timeouts among the events, in order. -/
def timeoutsOf (ev : List Event) : List Cause := ev.filterMap timeoutCause

@[simp] theorem mem_timeoutsOf {n : Cause} {ev : List Event} : n ∈ timeoutsOf ev ↔ .timeout n ∈ ev := by
  have hcause (e : Event) : timeoutCause e = some n ↔ e = .timeout n := by cases e <;> simp [timeoutCause]
  simp [timeoutsOf, hcause]

@[simp] theorem timeoutsOf_nil : timeoutsOf [] = [] := rfl

@[simp] theorem timeoutsOf_cons_timeout (n : Cause) (ev : List Event) :
    timeoutsOf (.timeout n :: ev) = n :: timeoutsOf ev := rfl

@[simp] theorem timeoutsOf_cons_done (v : Option Byte) (ev : List Event) :
    timeoutsOf (.done v :: ev) = timeoutsOf ev := rfl

@[simp] theorem timeoutsOf_cons_accept (cw : CmdWord) (ev : List Event) :
    timeoutsOf (.accept cw :: ev) = timeoutsOf ev := rfl

@[simp] theorem timeoutsOf_append (ev ev' : List Event) : timeoutsOf (ev ++ ev') = timeoutsOf ev ++ timeoutsOf ev' :=
  List.filterMap_append

theorem timeoutsOf_accesses {acc : List Event} (h : ∀ e ∈ acc, isAccess e = true) : timeoutsOf acc = [] := by
  refine List.filterMap_eq_nil_iff.mpr fun e he => ?_
  rcases (isAccess_iff e).mp (h e he) with ⟨r, v, rfl⟩ | ⟨r, v, rfl⟩ <;> rfl

/-- From `s` to `t` ERR gains the bits of the timeouts that happened, and nothing else changes it (10_state.md R15). -/
def ErrGainsTimeouts (s t : State) : Prop :=
  ∃ ev, Claims.Happened s t ev ∧ t.err = (timeoutsOf ev).foldl errSet s.err

namespace ErrGainsTimeouts

theorem trans {s t u : State} (h : ErrGainsTimeouts s t) (h' : ErrGainsTimeouts t u) : ErrGainsTimeouts s u := by
  obtain ⟨ev, hev, herr⟩ := h
  obtain ⟨ev', hev', herr'⟩ := h'
  exact ⟨ev ++ ev', by simp_all [Claims.Happened], by rw [timeoutsOf_append, List.foldl_append, ← herr, herr']⟩

theorem accept (cw : CmdWord) (s : State) : ErrGainsTimeouts s (accept cw s) := ⟨[.accept cw], rfl, rfl⟩

theorem leaveFor (q : Phase) (s : State) : ErrGainsTimeouts s (leaveFor q s) :=
  ⟨_, leaveFor_events q s, by split <;> simp⟩

theorem raiseTimeout (n : Cause) (s : State) : ErrGainsTimeouts s (raiseTimeout n s) :=
  ⟨_, raiseTimeout_events n s, by simp⟩

/-- Every row but a poll that times out makes one access, and may then complete the command. -/
theorem phaseRow_step (row : PhaseRow) (s : State) : ErrGainsTimeouts s (row.step s) := by
  have hread (r : PReg) : ErrGainsTimeouts s (regRead r s).2 := ⟨[.read r (regRead r s).1], rfl, rfl⟩
  cases row with
  | write r v q =>
    have hwrite : ErrGainsTimeouts s (regWrite r (v s.cfg.raw s.arg) s) := ⟨[.write r _], rfl, rfl⟩
    exact hwrite.trans (leaveFor q _)
  | trigger m q => exact ⟨[.write .CR (m s.cfg.raw)], rfl, rfl⟩
  | poll n q =>
    rcases pollStep_cases n (Machine.leaveFor q) s with ⟨-, h⟩ | ⟨-, -, h⟩ | ⟨-, -, h⟩ <;> rw [PhaseRow.step, h]
    · exact raiseTimeout n s
    · exact (hread .CR).trans (leaveFor q _)
    · exact hread .CR
  | readData =>
    have hdone (v : Byte) (t : State) : ErrGainsTimeouts t (completeRead v t) := ⟨[.done (some v)], rfl, rfl⟩
    exact (hread .DR).trans (hdone _ _)

theorem workStep (s : State) : ErrGainsTimeouts s (workStep s) := by
  unfold Machine.workStep
  split
  · exact ⟨[], by simp [Claims.Happened], rfl⟩
  · exact phaseRow_step _ s

/-- A whole command is its accept and then a run of the phase table. -/
theorem commandEffect (i : Instr) (s : State) : ErrGainsTimeouts s (commandEffect i s) := by
  obtain ⟨n, -, -, -, hrun⟩ := commandEffect_run i s
  rw [← hrun]
  exact Function.Iterate.rec (ErrGainsTimeouts s) (accept (encode i) s) (fun t ht => ht.trans (workStep t)) n

end ErrGainsTimeouts

/-- A whole command times out at most once, from a cause of its own (60_exceptions.md R76). -/
theorem timeoutsOf_commandEffect {i : Instr} {s : State} {ev : List Event}
    (hev : Claims.Happened s (commandEffect i s) ev) :
    timeoutsOf ev = [] ∨ ∃ n ∈ causesOf i, timeoutsOf ev = [n] := by
  obtain ⟨acc, raised, hev', hacc, -, -, hraised⟩ := commandEffect_events i s
  obtain rfl := List.append_cancel_left (hev.symm.trans hev')
  have honly : timeoutsOf (.accept (encode i) :: acc ++ raised ++
      [.done (if isReadCommand i then some (commandEffect i s).res else none)]) = timeoutsOf raised := by
    simp [timeoutsOf_accesses hacc]
  rw [honly]
  rcases hraised with rfl | ⟨n, hn, rfl⟩
  · exact .inl rfl
  · exact .inr ⟨n, hn, rfl⟩

end Sys2Proof.Machine

namespace Sys2Proof.Proofs

open Sys2Proof Sys2Proof.Machine

/-- Settles O30: an IDLE step writes ERR and then accepts what is offered, and a busy step looks at no port but `rst`. -/
theorem hostWriteOfErr : Obligations.HostWriteOfErr := by
  refine ⟨fun s hidle hrst hwr hvalid => ?_, fun s i hidle hrst hwr hvalid hdecode => ?_,
    fun s w v hbusy => step_of_busy_ports hbusy (by rfl) _⟩
  · refine ⟨_, step_of_no_offer hidle hrst hvalid, ?_⟩
    simp [hwr, hidle, errWritten_eq_append]
  · obtain ⟨-, hword⟩ := (decode_eq_instr_iff _ _).mp hdecode
    refine ⟨_, step_of_offer i hidle hrst hvalid hword.symm, ?_⟩
    have hfirst := firstPhase_ne_idle i
    rw [← hword]
    exact ⟨by simp [hwr, errWritten_eq_append], by simpa using hfirst, rfl, rfl, by simp [hwr]⟩

/-- Settles O32: ERR gains the bits of the command's timeouts, and there is at most one. -/
theorem commandSetsAtMostOneErrBit : Obligations.CommandSetsAtMostOneErrBit := by
  intro i s
  obtain ⟨ev, hev, herr⟩ := ErrGainsTimeouts.commandEffect i s
  refine ⟨ev, hev, ?_⟩
  simp only [← mem_timeoutsOf, herr]
  rcases timeoutsOf_commandEffect hev with hnone | ⟨n, hn, hone⟩
  · exact .inl (by simp [hnone])
  · exact .inr ⟨n, hn, by simp [hone, errSet, errMask]⟩

/-- Settles O31: the port masks ERR as the host's write does, and the invariant leaves the mask nothing to clear. -/
theorem hostReadOfErr : Obligations.HostReadOfErr :=
  fun s => ⟨errWritten_reserved s.err, fun hinv => errPort_of_reserved hinv.err_reserved⟩

end Sys2Proof.Proofs
end

section
/-! SUPPORT. Reset from any state (70_reset_and_hazards.md R86): the whole of a reset step is the event `Reset`, so that the ports
it drives show neither a `Done` nor an access. -/

namespace Sys2Proof.Machine

theorem lastEvents_applyReset_beginStep (s : State) : lastEvents (applyReset (beginStep s)) = [.reset] :=
  lastEvents_of_mark (s := s) rfl rfl

end Sys2Proof.Machine

namespace Sys2Proof.Proofs

open Sys2Proof Sys2Proof.Machine

/-- Settles O11: the step is `applyReset` alone, and the one event after the mark is `Reset`. -/
theorem resetWinsAndClearsTheSixRegisters : Obligations.ResetWinsAndClearsTheSixRegisters := by
  intro s hrst
  have hlast := lastEvents_applyReset_beginStep s
  have hdone : donePort (applyReset (beginStep s)) = false := by simp [donePort, hlast, isDone]
  obtain ⟨hwr, hrd, -, -⟩ := ports_of_lastEvents hlast
  exact ⟨_, step_of_reset hrst, rfl, rfl, rfl, rfl, rfl, rfl, rfl, hdone, hwr, hrd⟩

end Sys2Proof.Proofs
end
